-- ==== Sys2Proof/Word.lean ====
section
/-!
DEFINITION. Word: the types of values BGM treats as bits, and the bounded index types of its address spaces
(20_memory.md R22).
-/

namespace Sys2Proof

/-- A byte handed to the transport, or one plane of a word (PLANE_W = 8, R6). -/
abbrev Byte := BitVec 8

/-- A register-image word (WORD_W = 16, R6, R10); bit 0 is the least significant bit (R7). -/
abbrev Word := BitVec 16

/-- A legal bar number 0 to 23: the logical bar space after VALID, and the physical bar space (R22). -/
abbrev Bar := Fin 24

/-- A word index 0 to 2, D00's `group` (R22). -/
abbrev Group := Fin 3

/-- A bit offset 0 to 7 within a plane of a word, D00's `bitOffset` (R22). -/
abbrev BitOffset := Fin 8

end Sys2Proof
end

