-- ==== Sys2Proof/Config.lean ====
section
/-!
DEFINITION. Config: the implementation constants of BGM (00_scope.md R6, "No other parameter is left open").
BGM has no open constant, so no definition here lacks a body.  Its two free inputs, the strap ZERO_AT_CHIP and
the transport's answer, are inputs of every command by nature (R6, R15, R77) and stand in State as plain data.
-/

namespace Sys2Proof.Config

/-- NBARS (R6): "24-segment"; legal bar numbers are 0 to `nBars - 1`. -/
def nBars : Nat := 24

/-- BAR_W (R6, decision D2): the `bar` field, unsigned. -/
def barWidth : Nat := 5

/-- LEVEL_W (R6, decision D5): BRIGHT's operand, two's complement. -/
def levelWidth : Nat := 8

/-- RATE_W (R6, decision D6): BLINK's operand, unsigned, in half hertz. -/
def rateWidth : Nat := 8

/-- Format B's length in bits (R35). -/
def bmWordWidth : Nat := 9

/-- Format C's length in bits (R36). -/
def ceWordWidth : Nat := 10

end Sys2Proof.Config
end

