-- ==== Sys2Proof/Syntax.lean ====
section
/-!
DEFINITION. Syntax: the eight commands of BGM-1, one constructor per row of spec/opcode_table.json
(30_encoding.md R34, R42), and the command words they are presented as (R35, R36).
-/

namespace Sys2Proof

/-- BarColor (30_encoding.md R39, 40_mapper.md R54): exactly four members.  R39 and R79 keep a rejection rule for
models "with a wider colour type"; this type "cannot hold the bad value", so the rule has nothing to act on. -/
inductive Colour where
  | off
  | red
  | yellow
  | green
  deriving DecidableEq, Repr

/-- "a cosmetic 'Amber' alias ... the same value" as Yellow (R39). -/
abbrev Colour.amber : Colour := .yellow

/-- The commands of BGM-1.  Operands are the numbers the spec reads from the word's fields: a bar is an unsigned
number (R38), a level a signed one, a rate an unsigned number of half hertz (R41).  WellFormed bounds them by
their fields' widths.  Fields a command ignores (R43) are no operands. -/
inductive Instr where
  /-- CLEAR (R61). -/
  | clear
  /-- SET n, colour (R62). -/
  | set (n : Nat) (colour : Colour)
  /-- FILL n, colour (R63). -/
  | fill (n : Nat) (colour : Colour)
  /-- DRAW (R65). -/
  | draw
  /-- PWRON (R68). -/
  | pwron
  /-- PWROFF (R69). -/
  | pwroff
  /-- BRIGHT level (R72). -/
  | bright (level : Int)
  /-- BLINK rate2 (R73). -/
  | blink (rate2 : Nat)
  deriving DecidableEq, Repr

/-- The unit a command word is presented to; "the formats do not share a port" (R42). -/
inductive Port where
  /-- Unit BM, Format B. -/
  | bm
  /-- Unit CE, Format C. -/
  | ce
  deriving DecidableEq, Repr

/-- A command word "presented whole" (R34) at the port of its unit. -/
inductive CommandWord where
  /-- Format B, nine bits `oo cc bbbbb` (R35). -/
  | bm (w : BitVec 9)
  /-- Format C, ten bits `pp aaaaaaaa` (R36). -/
  | ce (w : BitVec 10)
  deriving DecidableEq, Repr

end Sys2Proof
end

