-- ==== Sys2Proof/Decode.lean ====
section
/-!
DEFINITION. Decode: command words to commands and back (30_encoding.md R35, R36, R39, R41 to R44).
Both opcode spaces are full (R42), so every word that fits its port has a command; the one thing a decoder can
reject is a number too wide for the port it is presented to.
-/

namespace Sys2Proof

/-- Why a number is no command word. -/
inductive DecodeError where
  /-- The number does not fit the port's word: 9 bits for unit BM, 10 for unit CE (R35, R36). -/
  | wordTooWide (port : Port)
  deriving DecidableEq, Repr

/-- Colour codes (R39): "This spec numbers them in D00's order". -/
def colourOfCode (code : BitVec 2) : Colour :=
  match code.toFin with
  | 0 => .off
  | 1 => .red
  | 2 => .yellow
  | 3 => .green

/-- The code of a colour (R39). -/
def colourCode : Colour → BitVec 2
  | .off => 0b00
  | .red => 0b01
  | .yellow => 0b10
  | .green => 0b11

/-- Format B's fields (R35). -/
def fieldOp (w : BitVec 9) : BitVec 2 := w.extractLsb' 7 2

/-- Bits 6:5 of a Format B word (R35). -/
def fieldColour (w : BitVec 9) : BitVec 2 := w.extractLsb' 5 2

/-- Bits 4:0 of a Format B word (R35). -/
def fieldBar (w : BitVec 9) : BitVec 5 := w.extractLsb' 0 5

/-- Bits 9:8 of a Format C word (R36). -/
def fieldCop (w : BitVec 10) : BitVec 2 := w.extractLsb' 8 2

/-- Bits 7:0 of a Format C word (R36). -/
def fieldArg (w : BitVec 10) : BitVec 8 := w.extractLsb' 0 8

/-- A Format B word's command (R35): `op` 0b00 CLEAR, 0b01 SET, 0b10 FILL, 0b11 DRAW. -/
def decodeB (w : BitVec 9) : Instr :=
  match (fieldOp w).toFin with
  | 0 => .clear
  | 1 => .set (fieldBar w).toNat (colourOfCode (fieldColour w))
  | 2 => .fill (fieldBar w).toNat (colourOfCode (fieldColour w))
  | 3 => .draw

/-- A Format C word's command (R36): `cop` 0b00 PWRON, 0b01 PWROFF, 0b10 BRIGHT, 0b11 BLINK.  `level` is
`sext(arg)`, `rate2` is `arg` unsigned (R41). -/
def decodeC (w : BitVec 10) : Instr :=
  match (fieldCop w).toFin with
  | 0 => .pwron
  | 1 => .pwroff
  | 2 => .bright (fieldArg w).toInt
  | 3 => .blink (fieldArg w).toNat

/-- Decoding "is by the two top bits of the word and by which unit the word is presented to" (R42). -/
def decode : CommandWord → Instr
  | .bm w => decodeB w
  | .ce w => decodeC w

/-- A number presented at a unit's port: its command word, or the name of what is wrong with it. -/
def wordAtPort (port : Port) (w : Nat) : Except DecodeError CommandWord :=
  match port with
  | .bm =>
    if w < 2 ^ Config.bmWordWidth then .ok (.bm (BitVec.ofNat 9 w)) else .error (.wordTooWide .bm)
  | .ce =>
    if w < 2 ^ Config.ceWordWidth then .ok (.ce (BitVec.ofNat 10 w)) else .error (.wordTooWide .ce)

/-- Decoding of a number presented at a unit's port. -/
def decodeAtPort (port : Port) (w : Nat) : Except DecodeError Instr :=
  match wordAtPort port w with
  | .ok cw => .ok (decode cw)
  | .error e => .error e

/-- A Format B word from its fields (R35), most significant first. -/
def formatB (op colour : BitVec 2) (bar : BitVec 5) : BitVec 9 := (op ++ colour ++ bar : BitVec 9)

/-- A Format C word from its fields (R36). -/
def formatC (cop : BitVec 2) (arg : BitVec 8) : BitVec 10 := (cop ++ arg : BitVec 10)

/-- The word of a command (R35, R36, R44).  In the fields a command ignores, zeros: "An assembler writes zeros
there" (R43). -/
def encode : Instr → CommandWord
  | .clear => .bm (formatB 0b00 0b00 0)
  | .set n c => .bm (formatB 0b01 (colourCode c) (BitVec.ofNat 5 n))
  | .fill n c => .bm (formatB 0b10 (colourCode c) (BitVec.ofNat 5 n))
  | .draw => .bm (formatB 0b11 0b00 0)
  | .pwron => .ce (formatC 0b00 0)
  | .pwroff => .ce (formatC 0b01 0)
  | .bright level => .ce (formatC 0b10 (BitVec.ofInt 8 level))
  | .blink rate2 => .ce (formatC 0b11 (BitVec.ofNat 8 rate2))

/-- A colour's name in assembly (R39, R44). -/
def colourName : Colour → String
  | .off => "Off"
  | .red => "Red"
  | .yellow => "Yellow"
  | .green => "Green"

/-- A command in the spec's assembler syntax (R44): mnemonic in capitals, operands separated by a comma, numbers in
decimal, colour by name. -/
def assembly : Instr → String
  | .clear => "CLEAR"
  | .set n c => "SET " ++ toString n ++ ", " ++ colourName c
  | .fill n c => "FILL " ++ toString n ++ ", " ++ colourName c
  | .draw => "DRAW"
  | .pwron => "PWRON"
  | .pwroff => "PWROFF"
  | .bright level => "BRIGHT " ++ toString level
  | .blink rate2 => "BLINK " ++ toString rate2

/-- The directive line of a listing that states the strap (R44). -/
def orientDirective (zeroAtChip : Bool) : String :=
  if zeroAtChip then ".orient ZeroAtChip" else ".orient ZeroAtFar"

/-- The port a bare number of the opcode table is taken to be presented at.  DESIGN CHOICE (assumption 2): the
spec's ports are separate (R42) and the number does not say which; a length of 9 or 10 bits names the format,
and of a number given in whole bytes (16) one below 0x200 is read as Format B and any other as Format C. -/
def tablePort (nbits w : Nat) : Port :=
  if nbits ≤ Config.bmWordWidth then .bm
  else if nbits ≤ Config.ceWordWidth then .ce
  else if w < 2 ^ Config.bmWordWidth then .bm
  else .ce

/-- The command word of a bare number of the opcode table, none where it fits neither port. -/
def tableCommandWord (nbits w : Nat) : Option CommandWord :=
  match wordAtPort (tablePort nbits w) w with
  | .ok cw => some cw
  | .error _ => none

/-- The command this decoder reads from the bits `w` of an opcode-table row. -/
def decodeTableWord (nbits w : Nat) : Option Instr :=
  (tableCommandWord nbits w).map decode

end Sys2Proof
end

