-- ==== Sys2Proof/Machine/State.lean ====
section
/-!
DEFINITION. State: everything the spec gives the machine (10_state.md R10 to R21), the inputs a step reads
(00_scope.md R9, 30_encoding.md R34, R37) and what a step yields (R37, R59), as plain data.
-/

namespace Sys2Proof.Machine

/-- The register image `W[0]`, `W[1]`, `W[2]` (R10): the general registers of BGM. -/
@[ext] structure Image where
  w0 : Word
  w1 : Word
  w2 : Word
  deriving DecidableEq, Repr

/-- The power state `PWR` of unit CE (R16): "a three-constructor enumeration", so the code 0b11 does not exist. -/
inductive Power where
  | unknown
  | off
  | on
  deriving DecidableEq, Repr

/-- The status a command ends with (30_encoding.md R40, 60_exceptions.md R78). -/
inductive Status where
  | ok
  | outOfRange
  | invalidRate
  | transportError
  deriving DecidableEq, Repr

/-- The mapper outputs of a SET or FILL whose bar passes VALID, at their port widths (40_mapper.md R59). -/
structure MapperValues where
  phys : BitVec 5
  wordSel : BitVec 2
  bitOff : BitVec 3
  redPos : BitVec 4
  grnPos : BitVec 4
  redVal : BitVec 1
  grnVal : BitVec 1
  redMask : Word
  grnMask : Word
  deriving DecidableEq, Repr

/-- The mapper output ports (R59). -/
inductive MapperPorts where
  /-- The command does not drive them: CLEAR, DRAW and every CE command. -/
  | notDriven
  /-- `valid` is 0 "and the other outputs have no meaning (a model returns none)". -/
  | invalid
  /-- `valid` is 1 and the other outputs have these values. -/
  | valid (v : MapperValues)
  deriving DecidableEq, Repr

/-- The results of one step, as ports (R37).  "Outputs that a command does not yield have no meaning for that
command; a model gives them no value": those are `none` (or `notDriven`). -/
structure Outputs where
  status : Status
  mapper : MapperPorts
  outBytes : Option (List Byte)
  diagClamped : Option Bool
  deriving DecidableEq, Repr

/-- One `write(deviceAddress, payload)` call to the transport and its answer (42_command_encoder.md R77). -/
structure BusWrite where
  device : Byte
  payload : List Byte
  failed : Bool
  deriving DecidableEq, Repr

/-- One command as the caller and the environment present it: the word at its unit's port with "the strap
ZERO_AT_CHIP beside it" (R34), and the transport's answer should the command emit (`xport_fail`, R37, R77: "a
free input"). -/
structure Request where
  word : CommandWord
  zeroAtChip : Bool
  xportFail : Bool
  deriving DecidableEq, Repr

/-- The machine. -/
structure State where
  /-- The register image `W[0..2]` (R10). -/
  image : Image
  /-- `PWR` (R16). -/
  pwr : Power
  /-- The level of the strap ZERO_AT_CHIP: true is ZeroAtChip (R15, decision D4).  An input; no command writes it. -/
  zeroAtChip : Bool
  /-- The level of the input `xport_fail` (R37, R77).  No command writes it. -/
  xportFail : Bool
  /-- The commands still to come, the next one first (R9, R14: "A model takes the command sequence as an input
  list"). -/
  pending : List Request
  /-- The result ports of the last step; none when it ran no command.  No command reads them (R18). -/
  outputs : Option Outputs
  /-- The writes handed to the transport so far, the oldest first (R31).  The environment's record: BGM keeps no
  copy of what it sent (R20), and no command reads this. -/
  sent : List BusWrite
  deriving DecidableEq, Repr

/-- Reasons a step stops with a fault: none.  "There is no fatal/process-terminating condition owned by this core"
(R78), and OutOfRange and InvalidRate are "ordinary outcomes with a next state" (R86). -/
inductive Fault
  deriving DecidableEq, Repr

/-- Reasons a step refuses. -/
inductive Refusal where
  /-- Raised by an arm of `exec` whose instruction has no meaning yet (no arm raises it).  Safe. -/
  | notModelled (mnemonic : String)
  deriving DecidableEq, Repr

/-- The machine right after reset (R21, R93): the image zero, `PWR` Unknown, no result, nothing emitted (R96), no
command presented.  The strap and the answer input are no registers and have no reset value in the spec; the
levels here are DESIGN CHOICE (assumption 3), and a step overwrites both before a command can read them. -/
def State.reset : State where
  image := ⟨0x0000, 0x0000, 0x0000⟩
  pwr := .unknown
  zeroAtChip := false
  xportFail := false
  pending := []
  outputs := none
  sent := []

end Sys2Proof.Machine
end

