-- ==== Sys2Proof/Machine/Flags.lean ====
section
/-!
DEFINITION. Flags: BGM "has no stored flags or condition codes" (10_state.md R18).  What stands here is what a
command yields in their place: its status and BRIGHT's diagnostic, and their codes at the ports.
-/

namespace Sys2Proof.Machine

/-- The status of a command that emitted, from the transport's answer (R65, R68, R77, R81). -/
def answerStatus (xportFail : Bool) : Status :=
  if xportFail then .transportError else .ok

/-- `diag_clamped` (R72, R83): 1 exactly when clamping changes the level. -/
def diagOfLevel (level : Int) : Bool :=
  decide (level < 0) || decide (level > 15)

/-- The code at the port `status[1:0]` (30_encoding.md R40). -/
def statusCode : Status → BitVec 2
  | .ok => 0b00
  | .outOfRange => 0b01
  | .invalidRate => 0b10
  | .transportError => 0b11

/-- The bits of `PWR` (10_state.md R16, decision D17); 0b11 is never held. -/
def powerCode : Power → BitVec 2
  | .unknown => 0b00
  | .off => 0b01
  | .on => 0b10

/-- The mapper port `valid` (R59); no value where the command does not drive it. -/
def validPort : MapperPorts → Option (BitVec 1)
  | .notDriven => none
  | .invalid => some 0
  | .valid _ => some 1

/-- The port `out_len` (R37): the length of the byte sequence, where one is yielded. -/
def outLen (o : Outputs) : Option Nat := o.outBytes.map List.length

end Sys2Proof.Machine
end

