-- ==== Sys2Proof/Machine/Operands.lean ====
section
/-!
DEFINITION. Operands: the combinational functions of 40_mapper.md and the operand and byte tables of
42_command_encoder.md.  None of them has state.  A function the spec leaves undefined outside a domain takes a
type that cannot hold the bad value, or answers `none` (40_mapper.md, opening).
-/

namespace Sys2Proof.Machine

/-- VALID (R47), giving the legal bar number it admits; on the logical number, before orientation. -/
def validBar (n : Nat) : Option Bar :=
  if h : n < Config.nBars then some ⟨n, h⟩ else none

/-- ORIENT (R49): logical to physical bar; the strap true is ZeroAtChip. -/
def orient (zeroAtChip : Bool) (n : Bar) : Bar :=
  if zeroAtChip then ⟨23 - n.val, by omega⟩ else n

/-- The word index of a physical bar (R50): "do not 'simplify' the arithmetic". -/
def mapGroup (p : Bar) : Group :=
  ⟨if p.val < 12 then p.val / 4 else (p.val - 12) / 4, by split <;> omega⟩

/-- The bit offset of a physical bar within the word's two bitplanes (R50). -/
def mapBit (p : Bar) : BitOffset :=
  ⟨p.val % 4 + (if p.val ≥ 12 then 4 else 0), by split <;> omega⟩

/-- MAP (R50). -/
def mapBar (p : Bar) : Group × BitOffset := (mapGroup p, mapBit p)

/-- MAPINV (R52): `4 * group + bitOffset[1:0] + (bitOffset[2] ? 12 : 0)`. -/
def mapInv (g : Group) (b : BitOffset) : Bar :=
  ⟨4 * g.val + b.val % 4 + (if b.val ≥ 4 then 12 else 0), by split <;> omega⟩

/-- RMASK (R53). -/
def rmask (b : BitOffset) : Word := 1#16 <<< b.val

/-- GMASK (R53). -/
def gmask (b : BitOffset) : Word := 1#16 <<< (b.val + 8)

/-- COLOUR's red-plane bit value `r` (R54). -/
def redVal : Colour → Bool
  | .off => false
  | .red => true
  | .yellow => true
  | .green => false

/-- COLOUR's green-plane bit value `g` (R54). -/
def grnVal : Colour → Bool
  | .off => false
  | .red => false
  | .yellow => true
  | .green => true

/-- A bit value as a word, to be shifted to its place (R56's `r` and `g`). -/
def bitWord (v : Bool) : Word := if v then 1 else 0

/-- UPDATE (R56): bits `b` and `b + 8` of the word take the colour's values. -/
def update (w : Word) (b : BitOffset) (c : Colour) : Word :=
  (w &&& ~~~(rmask b) &&& ~~~(gmask b)) ||| (bitWord (redVal c) <<< b.val)
    ||| (bitWord (grnVal c) <<< (b.val + 8))

/-- The colour a bar's two bits show, red bit first (10_state.md R13). -/
def colourOfBits (r g : Bool) : Colour :=
  match r, g with
  | false, false => .off
  | true, false => .red
  | true, true => .yellow
  | false, true => .green

/-- The mapper outputs for a legal logical bar (R59). -/
def mapperValues (zeroAtChip : Bool) (n : Bar) (c : Colour) : MapperValues :=
  let p := orient zeroAtChip n
  let b := mapBit p
  { phys := BitVec.ofNat 5 p.val
    wordSel := BitVec.ofNat 2 (mapGroup p).val
    bitOff := BitVec.ofNat 3 b.val
    redPos := BitVec.ofNat 4 b.val
    grnPos := BitVec.ofNat 4 (b.val + 8)
    redVal := BitVec.ofBool (redVal c)
    grnVal := BitVec.ofBool (grnVal c)
    redMask := rmask b
    grnMask := gmask b }

/-- The low byte of a word, its red plane (R7, R11). -/
def lowByte (w : Word) : Byte := w.extractLsb' 0 8

/-- The high byte of a word, its green plane (R7, R11). -/
def highByte (w : Word) : Byte := w.extractLsb' 8 8

/-! The command bytes, "fixed by the driven chip, not configurable" (42_command_encoder.md R71). -/

/-- "System oscillator on". -/
def oscOn : Byte := 0x21

/-- "System oscillator off". -/
def oscOff : Byte := 0x20

/-- "Display on, no blink". -/
def dispOn : Byte := 0x81

/-- "Display off". -/
def dispOff : Byte := 0x80

/-- The trailing byte of BRIGHT and BLINK (R71, R75). -/
def pad : Byte := 0x00

/-- The fixed display-RAM start address that leads a DRAW payload (R29, R71). -/
def ramStart : Byte := 0x00

/-- The device address given to the transport with every payload: 7-bit base 0x70 "shifted left one bit" (R76). -/
def deviceAddress : Byte := 0x70#8 <<< 1

/-- BRIGHT's clamp into 0 to 15 (R72). -/
def clampLevel (level : Int) : Int :=
  if level < 0 then 0 else if level > 15 then 15 else level

/-- DIM (R71): `0xE0 | level` for a clamped level. -/
def dimByte (level : Int) : Byte := 0xE0#8 ||| BitVec.ofInt 8 level

/-- The blink-rate table (R74): the index of a supported rate given in half hertz, none for any other. -/
def blinkIndex (rate2 : Nat) : Option (Fin 4) :=
  if rate2 = 0 then some 0
  else if rate2 = 4 then some 1
  else if rate2 = 2 then some 2
  else if rate2 = 1 then some 3
  else none

/-- DISP_BLINK (R71): `0x81 | (idx << 1)`. -/
def blinkByte (idx : Fin 4) : Byte := 0x81#8 ||| (BitVec.ofNat 8 idx.val <<< 1)

end Sys2Proof.Machine
end

