-- ==== Sys2Proof/Machine/Ops.lean ====
section
/-!
DEFINITION. Ops: the operations over the register image, and what every command shares: reporting its results,
emitting to the transport, and `raise`, which is "the whole of 'trap entry'" (60_exceptions.md R86).  BGM has no
return beside it: "There is no return-from-trap command and nothing to restore" (R87).
-/

namespace Sys2Proof.Machine

/-- The all-Off image (R21, R61). -/
def imageZero : Image := ⟨0x0000, 0x0000, 0x0000⟩

/-- `W[g]` (00_scope.md R8). -/
def wordAt (img : Image) (g : Group) : Word :=
  match g with
  | 0 => img.w0
  | 1 => img.w1
  | 2 => img.w2

/-- `W[g] <- v` (R8). -/
def setWordAt (img : Image) (g : Group) (v : Word) : Image :=
  match g with
  | 0 => { img with w0 := v }
  | 1 => { img with w1 := v }
  | 2 => { img with w2 := v }

/-- SETP, D00's `_setBar` on a physical bar (40_mapper.md R57). -/
def setp (img : Image) (p : Bar) (c : Colour) : Image :=
  setWordAt img (mapGroup p) (update (wordAt img (mapGroup p)) (mapBit p) c)

/-- FILL's loop (41_buffer_commands.md R63): SETP of ORIENT(z, k) for k in 0 to n inclusive. -/
def fillUpTo (zeroAtChip : Bool) (c : Colour) (img : Image) : (n : Nat) → n < 24 → Image
  | 0, h => setp img (orient zeroAtChip ⟨0, h⟩) c
  | n + 1, h =>
    setp (fillUpTo zeroAtChip c img n (Nat.lt_of_succ_lt h)) (orient zeroAtChip ⟨n + 1, h⟩) c

/-- The colour physical bar `p` shows in an image (10_state.md R13).  No command returns it; claims are stated
with it. -/
def readColour (img : Image) (p : Bar) : Colour :=
  colourOfBits ((wordAt img (mapGroup p)).getLsbD (mapBit p).val)
    ((wordAt img (mapGroup p)).getLsbD ((mapBit p).val + 8))

/-- The seven bytes of a DRAW payload (R65, 20_memory.md R25): the start address, then each word low byte
first. -/
def drawBytes (img : Image) : List Byte :=
  [ramStart, lowByte img.w0, highByte img.w0, lowByte img.w1, highByte img.w1, lowByte img.w2, highByte img.w2]

/-- Ends the command with these results on its ports (R37). -/
def report (o : Outputs) (s : State) : State := { s with outputs := some o }

/-- `Emit` (R8, R77): one `write(deviceAddress, payload)` call; the answer is the input `xport_fail`. -/
def emit (payload : List Byte) (s : State) : State :=
  { s with sent := s.sent ++ [⟨deviceAddress, payload, s.xportFail⟩] }

/-- `raise` (R86): the command ends with the error status; no other state is written and nothing is emitted. -/
def raise (e : Status) (mapper : MapperPorts) (s : State) : State :=
  report { status := e, mapper := mapper, outBytes := none, diagClamped := none } s

/-- The end of every command that emits: the payload goes to the transport, and the ports show it with the status
of the answer (R37, R81). -/
def emitAndReport (payload : List Byte) (diagClamped : Option Bool) (s : State) : State :=
  report
    { status := answerStatus s.xportFail, mapper := .notDriven, outBytes := some payload,
      diagClamped := diagClamped }
    (emit payload s)

/-- The end of a buffer command that succeeds and emits nothing: the new image, status OK. -/
def finishImage (img : Image) (mapper : MapperPorts) (s : State) : State :=
  report { status := .ok, mapper := mapper, outBytes := none, diagClamped := none } { s with image := img }

/-- A request at the command port: the inputs take the levels it was presented with (R34, R37), and the commands
after it remain to come (R31). -/
def present (r : Request) (rest : List Request) (s : State) : State :=
  { s with zeroAtChip := r.zeroAtChip, xportFail := r.xportFail, pending := rest }

/-- "When the caller presents no command, nothing happens" (R34); results are not latched (R18). -/
def idle (s : State) : State := { s with outputs := none }

end Sys2Proof.Machine
end

