-- ==== Sys2Proof/Machine/Buffer.lean ====
section
/-!
DEFINITION. Buffer: the commands of unit BM (41_buffer_commands.md): CLEAR, SET, FILL, DRAW.
-/

namespace Sys2Proof.Machine

/-- CLEAR (R61): "resets all three words to zero (all bars Off). Always succeeds." -/
def execClear (s : State) : Host.Outcome State Fault Refusal :=
  .next (finishImage imageZero .notDriven s)

/-- SET n, colour (R62): OutOfRange before anything else, else SETP of the oriented bar. -/
def execSet (n : Nat) (c : Colour) (s : State) : Host.Outcome State Fault Refusal :=
  match validBar n with
  | none => .next (raise .outOfRange .invalid s)
  | some b =>
    .next (finishImage (setp s.image (orient s.zeroAtChip b) c)
      (.valid (mapperValues s.zeroAtChip b c)) s)

/-- FILL n, colour (R63), inclusive under both orientations (90_conflicts.md C1).  The mapper outputs describe the
operand's bar, the last one filled (R59). -/
def execFill (n : Nat) (c : Colour) (s : State) : Host.Outcome State Fault Refusal :=
  match validBar n with
  | none => .next (raise .outOfRange .invalid s)
  | some b =>
    .next (finishImage (fillUpTo s.zeroAtChip c s.image b.val b.isLt)
      (.valid (mapperValues s.zeroAtChip b c)) s)

/-- DRAW (R65): the image goes out as seven bytes (90_conflicts.md C2) and is not changed, whatever the answer
(C8). -/
def execDraw (s : State) : Host.Outcome State Fault Refusal :=
  .next (emitAndReport (drawBytes s.image) none s)

end Sys2Proof.Machine
end

