-- ==== Sys2Proof/Machine/Encoder.lean ====
section
/-!
DEFINITION. Encoder: the commands of unit CE (42_command_encoder.md): PWRON, PWROFF, BRIGHT, BLINK.
-/

namespace Sys2Proof.Machine

/-- `PWR` after a power command (R68 to R70): the new state if the transport answered ok, else Unknown. -/
def powerAfter (told : Power) (xportFail : Bool) : Power :=
  if xportFail then .unknown else told

/-- The payload of PWRON (R68): "oscillator on, then display on". -/
def pwronBytes : List Byte := [oscOn, dispOn]

/-- The payload of PWROFF (R69): "display off, then oscillator off" (90_conflicts.md C10). -/
def pwroffBytes : List Byte := [dispOff, oscOff]

/-- The payload of BRIGHT (R72). -/
def brightBytes (level : Int) : List Byte := [dimByte (clampLevel level), pad]

/-- The payload of BLINK for an index of the table (R73): two bytes (90_conflicts.md C4). -/
def blinkBytes (idx : Fin 4) : List Byte := [blinkByte idx, pad]

/-- PWRON (R68). -/
def execPwron (s : State) : Host.Outcome State Fault Refusal :=
  .next (emitAndReport pwronBytes none { s with pwr := powerAfter .on s.xportFail })

/-- PWROFF (R69). -/
def execPwroff (s : State) : Host.Outcome State Fault Refusal :=
  .next (emitAndReport pwroffBytes none { s with pwr := powerAfter .off s.xportFail })

/-- BRIGHT level (R72): clamped, not rejected, with the diagnostic. -/
def execBright (level : Int) (s : State) : Host.Outcome State Fault Refusal :=
  .next (emitAndReport (brightBytes level) (some (diagOfLevel level)) s)

/-- BLINK rate2 (R73): InvalidRate with nothing emitted for an unsupported rate; the table wins over D00's example
(90_conflicts.md C3). -/
def execBlink (rate2 : Nat) (s : State) : Host.Outcome State Fault Refusal :=
  match blinkIndex rate2 with
  | none => .next (raise .invalidRate .notDriven s)
  | some idx => .next (emitAndReport (blinkBytes idx) none s)

end Sys2Proof.Machine
end

