-- ==== Sys2Proof/Machine/Dispatch.lean ====
section
/-!
DEFINITION. Dispatch: each command of BGM-1 to its meaning.
-/

namespace Sys2Proof.Machine

def exec (i : Instr) (s : State) : Host.Outcome State Fault Refusal :=
  match i with
  | .clear => Sys2Proof.Machine.execClear s
  | .set n colour => Sys2Proof.Machine.execSet n colour s
  | .fill n colour => Sys2Proof.Machine.execFill n colour s
  | .draw => Sys2Proof.Machine.execDraw s
  | .pwron => Sys2Proof.Machine.execPwron s
  | .pwroff => Sys2Proof.Machine.execPwroff s
  | .bright level => Sys2Proof.Machine.execBright level s
  | .blink rate2 => Sys2Proof.Machine.execBlink rate2 s

end Sys2Proof.Machine
end

