-- ==== Sys2Proof/Machine/Step.lean ====
section
/-!
DEFINITION. Step: one command from the caller to completion (00_scope.md R9, 20_memory.md R31).
-/

namespace Sys2Proof.Machine

/-- One step (R9): the next request's levels stand on the inputs, its word is decoded and its command runs to
completion.  With no request presented nothing happens (R34). -/
def step (s : State) : Host.Outcome State Fault Refusal :=
  match s.pending with
  | [] => .next (idle s)
  | r :: rest => exec (decode r.word) (present r rest s)

/-- The state with the command word of an opcode-table number presented next, the strap and the answer input at
their present levels, ahead of the commands already to come (assumption 4).  A number no port can hold presents
nothing. -/
def State.withFetchWord (s : State) (nbits w : Nat) : State :=
  match tableCommandWord nbits w with
  | none => s
  | some cw => { s with pending := ⟨cw, s.zeroAtChip, s.xportFail⟩ :: s.pending }

end Sys2Proof.Machine
end

