-- ==== Sys2Proof/Machine/Init.lean ====
section
/-!
DEFINITION. Init: the pseudo-command INIT level, orientation (30_encoding.md R46, 70_reset_and_hazards.md R98).
It is the caller's expansion into commands and no row of the opcode table.
-/

namespace Sys2Proof.Machine

/-- The last step ended with TransportError. -/
def endedWithTransportError (s : State) : Bool :=
  decide (s.outputs.map Outputs.status = some .transportError)

/-- INIT (R46): the environment drives the strap to the orientation and holds it; then PWRON; then, unless that
ended with TransportError, BRIGHT.  `failOn` and `failBright` are the transport's answers to the two. -/
def runInit (level : Int) (zeroAtChip failOn failBright : Bool) (s : State) :
    Host.Outcome State Fault Refusal :=
  match execPwron { s with zeroAtChip := zeroAtChip, xportFail := failOn } with
  | .next t =>
    if endedWithTransportError t then .next t else execBright level { t with xportFail := failBright }
  | .fault r => .fault r
  | .refused r => .refused r

end Sys2Proof.Machine
end

