-- ==== Sys2Proof/Machine/Lanes.lean ====
section
/-!
DEFINITION. Lanes: the packed view of the image (40_mapper.md R58) and FILL in one step (41_buffer_commands.md
R64).  No meaning calls these; they are the spec's second, parallel form of SETP over a set and of FILL's loop.
-/

namespace Sys2Proof.Machine

/-- `Mi` of a set of physical bars (R58): bit `b` is 1 exactly when MAPINV(i, b) is in the set. -/
def laneMask (bars : Bar → Bool) (i : Group) : Byte :=
  BitVec.ofFnLE fun b : BitOffset => bars (mapInv i b)

/-- One word under a lane mask and a colour (R58). -/
def laneWord (w : Word) (m : Byte) (c : Colour) : Word :=
  let red := if redVal c then lowByte w ||| m else lowByte w &&& ~~~m
  let grn := if grnVal c then highByte w ||| m else highByte w &&& ~~~m
  grn ++ red

/-- The image with every word under its lane mask (R58). -/
def applyLanes (img : Image) (m : Group → Byte) (c : Colour) : Image :=
  ⟨laneWord img.w0 (m 0) c, laneWord img.w1 (m 1) c, laneWord img.w2 (m 2) c⟩

/-- SETP of the same colour on every bar of a list, one after another. -/
def setAll (img : Image) (bars : List Bar) (c : Colour) : Image :=
  bars.foldl (fun w p => setp w p c) img

/-- `lo(j)` (R64): the `j` lowest bits set. -/
def lowOnes (j : Nat) : Byte := (1#8 <<< j) - 1#8

/-- `clamp(x) = min(max(x, 0), 4)` (R64). -/
def clampNibble (x : Int) : Nat := (min (max x 0) 4).toNat

/-- `Mi` of FILL under ZeroAtFar (R64), for the operand's legal bar. -/
def farMask (n : Bar) (i : Group) : Byte :=
  let m : Int := n.val + 1
  lowOnes (clampNibble (m - 4 * i.val)) ||| (lowOnes (clampNibble (m - 12 - 4 * i.val)) <<< 4)

/-- The lane mask of FILL under either orientation (R64): under ZeroAtChip bit-reversed and word-swapped. -/
def fillMask (zeroAtChip : Bool) (n : Bar) (i : Group) : Byte :=
  if zeroAtChip then (farMask n ⟨2 - i.val, by omega⟩).reverse else farMask n i

end Sys2Proof.Machine
end

