-- ==== Sys2Proof/Safety.lean ====
section
/-!
DEFINITION. Safety: the terms claims about a whole run are stated in: what may ever reach the transport
(42_command_encoder.md R67, R71, R75, R76), what the device was last told (10_state.md R16, R20), and which bars a
FILL addresses (41_buffer_commands.md R63).
-/

namespace Sys2Proof.Machine

/-- The payloads BGM may hand to the transport (R65, R67, R71): seven bytes led by the start address, the two
power sequences in their order, a brightness byte or a blink byte with its trailing zero.  Written from the byte
values of R71 and not from the meanings. -/
def LegalPayload (bytes : List Byte) : Prop :=
  (bytes.length = 7 ∧ bytes.head? = some 0x00) ∨ bytes = [0x21, 0x81] ∨ bytes = [0x80, 0x20] ∨
    (∃ level : Nat, level ≤ 15 ∧ bytes = [0xE0#8 ||| BitVec.ofNat 8 level, 0x00]) ∨
    (∃ idx : Nat, idx ≤ 3 ∧ bytes = [0x81#8 ||| (BitVec.ofNat 8 idx <<< 1), 0x00])

/-- Every write so far went to the device address 0xE0 (R76) with a legal payload. -/
def WritesLegal (s : State) : Prop :=
  ∀ w ∈ s.sent, w.device = 0xE0 ∧ LegalPayload w.payload

/-- One write's effect on what the device was last told of its power (R70). -/
def powerToldBy (p : Power) (w : BusWrite) : Power :=
  if w.payload = [0x21, 0x81] then (if w.failed then .unknown else .on)
  else if w.payload = [0x80, 0x20] then (if w.failed then .unknown else .off)
  else p

/-- What the driver last told the device of its power, from the writes alone. -/
def powerTold (sent : List BusWrite) : Power := sent.foldl powerToldBy .unknown

/-- "`PWR` holds what the driver last told the device" (R16). -/
def PowerTracksWrites (s : State) : Prop := s.pwr = powerTold s.sent

/-- One write's effect on what the last successful DRAW sent: DRAW's payloads are the ones of seven bytes (R75). -/
def drawnBy (d : Option (List Byte)) (w : BusWrite) : Option (List Byte) :=
  if w.payload.length = 7 ∧ w.failed = false then some w.payload else d

/-- "what the last successful DRAW sent" (R20), none before any. -/
def lastDrawn (sent : List BusWrite) : Option (List Byte) := sent.foldl drawnBy none

/-- The physical bars FILL n writes (R63): 0 to n under ZeroAtFar, 23 down to 23 - n under ZeroAtChip. -/
def inFillRange (zeroAtChip : Bool) (n : Bar) (p : Bar) : Bool :=
  if zeroAtChip then decide (23 - n.val ≤ p.val) else decide (p.val ≤ n.val)

/-- The number of 1 bits among the first `n` of a word (40_mapper.md R60(f)'s popcount). -/
def popcountBelow (w : Word) : Nat → Nat
  | 0 => 0
  | n + 1 => popcountBelow w n + (w.getLsbD n).toNat

/-- The popcount of the image's six lanes together. -/
def imagePopcount (img : Image) : Nat :=
  popcountBelow img.w0 16 + popcountBelow img.w1 16 + popcountBelow img.w2 16

/-- The number of physical bars that show a colour. -/
def barsShowing (img : Image) (c : Colour) : Nat :=
  (List.finRange 24).countP fun p => decide (readColour img p = c)

end Sys2Proof.Machine
end

