-- ==== Sys2Proof/WellFormed.lean ====
section
/-!
DEFINITION. WellFormed: which terms of `Instr` a command word can carry (30_encoding.md R35, R36, R38, R41).
A bar of 24 to 31 is well formed: the port carries it and SET and FILL answer OutOfRange (R38).
-/

namespace Sys2Proof

/-- The operand fits its field: `bar` in 0 to 31 (R38), `level` in -128 to 127, `rate2` in 0 to 255 (R41). -/
def Instr.wf : Instr → Bool
  | .clear => true
  | .set n _ => decide (n < 2 ^ Config.barWidth)
  | .fill n _ => decide (n < 2 ^ Config.barWidth)
  | .draw => true
  | .pwron => true
  | .pwroff => true
  | .bright level =>
    decide (-(2 ^ (Config.levelWidth - 1) : Int) ≤ level) && decide (level < 2 ^ (Config.levelWidth - 1))
  | .blink rate2 => decide (rate2 < 2 ^ Config.rateWidth)

end Sys2Proof
end

