-- ==== Sys2Proof/Certificates/Slice0/Obligations.lean ====
section
/-!
DEFINITION. Obligations: the statements about BGM, from the numbered rules of spec/.
Statements about `exec` hold for every operand, also where no command word carries it.
-/

namespace Sys2Proof.Machine

/-- The status a state's result ports show, if any (30_encoding.md R37). -/
def statusOf (t : State) : Option Status := t.outputs.map Outputs.status

/-- The commands that write the image (10_state.md R10). -/
def WritesImage (i : Instr) : Prop :=
  i = .clear ∨ (∃ n c, i = .set n c) ∨ (∃ n c, i = .fill n c)

/-- SET or FILL of this bar and colour. -/
def IsBarCommand (i : Instr) (n : Nat) (c : Colour) : Prop := i = .set n c ∨ i = .fill n c

/-- A rate the blink table has (42_command_encoder.md R74), in half hertz. -/
def SupportedRate (rate2 : Nat) : Prop := rate2 = 0 ∨ rate2 = 1 ∨ rate2 = 2 ∨ rate2 = 4

/-- The ports of a buffer command that ends with status OK and emits nothing. -/
def okPorts (m : MapperPorts) : Outputs :=
  { status := .ok, mapper := m, outBytes := none, diagClamped := none }

/-- The ports of a command that ended with an operand error. -/
def errorPorts (e : Status) (m : MapperPorts) : Outputs :=
  { status := e, mapper := m, outBytes := none, diagClamped := none }

/-- The ports of a command that handed a payload to the transport and got this answer. -/
def sentPorts (xportFail : Bool) (payload : List Byte) (diag : Option Bool) : Outputs :=
  { status := if xportFail then .transportError else .ok, mapper := .notDriven,
    outBytes := some payload, diagClamped := diag }

/-- The state after one `Emit` of a payload (00_scope.md R8), with these ports; nothing else changes.  The list of
writes is the model's record of the transport calls (assumption 6). -/
def afterWrite (s : State) (payload : List Byte) (diag : Option Bool) : State :=
  { s with
    outputs := some (sentPorts s.xportFail payload diag)
    sent := s.sent ++ [⟨0xE0, payload, s.xportFail⟩] }

/-- The rows of 40_mapper.md R51: p, group, bitOffset, red bit, green bit, red mask, green mask. -/
def mapTableLow : List (Nat × Nat × Nat × Nat × Nat × Word × Word) :=
  [(0, 0, 0, 0, 8, 0x0001, 0x0100), (1, 0, 1, 1, 9, 0x0002, 0x0200), (2, 0, 2, 2, 10, 0x0004, 0x0400),
   (3, 0, 3, 3, 11, 0x0008, 0x0800), (4, 1, 0, 0, 8, 0x0001, 0x0100), (5, 1, 1, 1, 9, 0x0002, 0x0200),
   (6, 1, 2, 2, 10, 0x0004, 0x0400), (7, 1, 3, 3, 11, 0x0008, 0x0800), (8, 2, 0, 0, 8, 0x0001, 0x0100),
   (9, 2, 1, 1, 9, 0x0002, 0x0200), (10, 2, 2, 2, 10, 0x0004, 0x0400), (11, 2, 3, 3, 11, 0x0008, 0x0800)]

/-- The rest of the table of R51, the bars of the high nibbles. -/
def mapTableHigh : List (Nat × Nat × Nat × Nat × Nat × Word × Word) :=
  [(12, 0, 4, 4, 12, 0x0010, 0x1000), (13, 0, 5, 5, 13, 0x0020, 0x2000), (14, 0, 6, 6, 14, 0x0040, 0x4000),
   (15, 0, 7, 7, 15, 0x0080, 0x8000), (16, 1, 4, 4, 12, 0x0010, 0x1000), (17, 1, 5, 5, 13, 0x0020, 0x2000),
   (18, 1, 6, 6, 14, 0x0040, 0x4000), (19, 1, 7, 7, 15, 0x0080, 0x8000), (20, 2, 4, 4, 12, 0x0010, 0x1000),
   (21, 2, 5, 5, 13, 0x0020, 0x2000), (22, 2, 6, 6, 14, 0x0040, 0x4000), (23, 2, 7, 7, 15, 0x0080, 0x8000)]

end Sys2Proof.Machine

open Sys2Proof Sys2Proof.Machine

/-! ### Encoding -/

/-- Words written out bit by bit in 95_test_vectors.md T11 decode to the commands they stand for. -/
def Obligations.WordsOfTheSpecDecode : Prop :=
  decode (.bm 0b000000000) = .clear ∧ decode (.bm 0b011100111) = .set 7 .green ∧
  decode (.bm 0b101100101) = .fill 5 .green ∧ decode (.bm 0b110000000) = .draw ∧
  decode (.ce 0b0000000000) = .pwron ∧ decode (.ce 0b0100000000) = .pwroff ∧
  decode (.ce 0b1000010100) = .bright 20 ∧ decode (.ce 0b1011111111) = .bright (-1) ∧
  decode (.ce 0b1100000010) = .blink 2

/-- Decoding the word of a well-formed command gives that command (30_encoding.md section 1 and 2). -/
def Obligations.DecodeOfEncodeIsTheCommand : Prop :=
  ∀ i : Instr, i.wf = true → decode (encode i) = i

/-- Every command word has a command, which is well formed, and encoding it gives the word back with zeros in the
fields the command ignores (30_encoding.md R42, R43). -/
def Obligations.EncodeOfDecodeZeroesIgnoredFields : Prop :=
  (∀ w : BitVec 9, (decode (.bm w)).wf = true ∧
    encode (decode (.bm w)) =
      .bm (if w.getLsbD 8 = w.getLsbD 7 then w &&& 0b110000000 else w)) ∧
  (∀ w : BitVec 10, (decode (.ce w)).wf = true ∧
    encode (decode (.ce w)) = .ce (if w.getLsbD 9 then w else w &&& 0b1100000000))

/-- 30_encoding.md R43. -/
def Obligations.IgnoredFieldsChangeNothing : Prop :=
  (∀ (colour : BitVec 2) (bar : BitVec 5) (s : State),
    exec (decode (.bm (0b00#2 ++ colour ++ bar))) s = exec .clear s ∧
    exec (decode (.bm (0b11#2 ++ colour ++ bar))) s = exec .draw s) ∧
  (∀ (arg : BitVec 8) (s : State),
    exec (decode (.ce (0b00#2 ++ arg))) s = exec .pwron s ∧
    exec (decode (.ce (0b01#2 ++ arg))) s = exec .pwroff s) ∧
  (encode .clear = .bm 0x000 ∧ encode .draw = .bm 0x180 ∧ encode .pwron = .ce 0x000 ∧
    encode .pwroff = .ce 0x100) ∧
  (∀ (cw : CommandWord) (s t : State), exec (decode cw) s = .next t →
    ((statusOf t = some .outOfRange ↔
        ∃ n c, IsBarCommand (decode cw) n c ∧ 24 ≤ n ∧ n ≤ 31) ∧
     (statusOf t = some .invalidRate ↔ ∃ r, decode cw = .blink r ∧ ¬ SupportedRate r) ∧
     (∀ level, decode cw = .bright level → s.xportFail = false → statusOf t = some .ok)))

/-- The codes at the ports: colours (30_encoding.md R39), statuses (R40), `PWR` (10_state.md R16). -/
def Obligations.CodesAtThePorts : Prop :=
  ([Colour.off, .red, .yellow, .green].map colourCode = [0b00, 0b01, 0b10, 0b11]) ∧
  (∀ c : Colour, colourOfCode (colourCode c) = c) ∧ Colour.amber = Colour.yellow ∧
  ([Status.ok, .outOfRange, .invalidRate, .transportError].map statusCode = [0b00, 0b01, 0b10, 0b11]) ∧
  ([Power.unknown, .off, .on].map powerCode = [0b00, 0b01, 0b10])

/-! ### The mapper -/

/-- 40_mapper.md R49. -/
def Obligations.OrientTranslatesLogicalBars : Prop :=
  (∀ (z : Bool) (n : Bar), (orient z n).val = if z then 23 - n.val else n.val) ∧
  (∀ (z : Bool) (n : Bar), orient z (orient z n) = n) ∧
  (∀ z : Bool, Function.Bijective (orient z)) ∧
  orient true 0 = 23 ∧ orient true 23 = 0

/-- 40_mapper.md R50. -/
def Obligations.MapFollowsTheWiringFormula : Prop :=
  (∀ p : Bar, (mapGroup p).val = (if p.val < 12 then p.val / 4 else (p.val - 12) / 4) ∧
    (mapBit p).val = p.val % 4 + (if p.val ≥ 12 then 4 else 0) ∧ mapBar p = (mapGroup p, mapBit p)) ∧
  (∀ (p : Bar) (g : Group), mapGroup p = g ∧ (mapBit p).val < 4 ↔ 4 * g.val ≤ p.val ∧ p.val ≤ 4 * g.val + 3) ∧
  (∀ (p : Bar) (g : Group),
    mapGroup p = g ∧ 4 ≤ (mapBit p).val ↔ 12 + 4 * g.val ≤ p.val ∧ p.val ≤ 12 + 4 * g.val + 3)

/-- 40_mapper.md R51: the table, row by row, and that MAP is a bijection onto the (word, bit) positions. -/
def Obligations.MapTableIsABijection : Prop :=
  (∀ row ∈ mapTableLow ++ mapTableHigh, ∀ p : Bar, p.val = row.1 →
    (mapGroup p).val = row.2.1 ∧ (mapBit p).val = row.2.2.1 ∧ (mapBit p).val = row.2.2.2.1 ∧
    (mapBit p).val + 8 = row.2.2.2.2.1 ∧ rmask (mapBit p) = row.2.2.2.2.2.1 ∧
    gmask (mapBit p) = row.2.2.2.2.2.2) ∧
  (mapTableLow ++ mapTableHigh).map Prod.fst = List.range 24 ∧
  Function.Bijective mapBar

/-- 40_mapper.md R52: the equivalent forms, on the five bits of a legal `p`, and the inverse. -/
def Obligations.MapEquivalentFormsAgree : Prop :=
  (∀ p : Bar,
    let b := BitVec.ofNat 5 p.val
    let hi := b.getLsbD 4 || (b.getLsbD 3 && b.getLsbD 2)
    let t := p.val / 4
    (hi = decide (p.val ≥ 12)) ∧
    BitVec.ofNat 3 (mapBit p).val = BitVec.ofBool hi ++ b.extractLsb' 0 2 ∧
    (b.extractLsb' 2 3).toNat = t ∧ (mapGroup p).val = t % 3 ∧
    (mapGroup p).val = (if hi then t - 3 else t)) ∧
  (∀ (g : Group) (b : BitOffset),
    (mapInv g b).val = 4 * g.val + b.val % 4 + (if (BitVec.ofNat 3 b.val).getLsbD 2 then 12 else 0)) ∧
  (∀ p : Bar, mapInv (mapBar p).1 (mapBar p).2 = p) ∧
  (∀ n : Nat, 24 ≤ n → n ≤ 31 → validBar n = none ∧ ((n - 12) / 4 = 3 ∨ (n - 12) / 4 = 4))

/-- 40_mapper.md R60 (a), (b) and (c), and 20_memory.md section 1: the two bijections and the mirror. -/
def Obligations.StrapFlipMirrorsTheLayout : Prop :=
  (∀ z : Bool, Function.Bijective (fun n : Bar => mapBar (orient z n))) ∧
  (∀ p : Bar, (mapGroup (orient true p)).val = 2 - (mapGroup p).val ∧
    (mapBit (orient true p)).val = 7 - (mapBit p).val) ∧
  ([0, 1, 2, 3].map fun n : Bar => mapBar (orient true n)) = [(2, 7), (2, 6), (2, 5), (2, 4)] ∧
  ([20, 21, 22, 23].map fun n : Bar => mapBar (orient true n)) = [(0, 3), (0, 2), (0, 1), (0, 0)]

/-- 40_mapper.md R53. -/
def Obligations.MasksAreOneHotAndDisjoint : Prop :=
  (∀ b : BitOffset, rmask b = 1#16 <<< b.val ∧ gmask b = 1#16 <<< (b.val + 8) ∧ gmask b = rmask b <<< 8 ∧
    rmask b &&& gmask b = 0) ∧
  (∀ p q : Bar, p ≠ q → mapGroup p = mapGroup q →
    (rmask (mapBit p) ||| gmask (mapBit p)) &&& (rmask (mapBit q) ||| gmask (mapBit q)) = 0)

/-- 40_mapper.md R54. -/
def Obligations.ColourGivesTheTwoBits : Prop :=
  ([Colour.off, .red, .yellow, .green].map fun c => (redVal c, grnVal c)) =
    [(false, false), (true, false), (true, true), (false, true)] ∧
  (∀ c : Colour, redVal c = ((colourCode c).getLsbD 1 ^^ (colourCode c).getLsbD 0) ∧
    grnVal c = (colourCode c).getLsbD 1)

/-- 40_mapper.md R56, with its corner cases and examples. -/
def Obligations.UpdateWritesExactlyTheBarsBits : Prop :=
  (∀ (w : Word) (b : BitOffset) (c : Colour),
    (update w b c).getLsbD b.val = redVal c ∧ (update w b c).getLsbD (b.val + 8) = grnVal c ∧
    (∀ j : Nat, j ≠ b.val → j ≠ b.val + 8 → (update w b c).getLsbD j = w.getLsbD j)) ∧
  (∀ (w : Word) (b : BitOffset),
    update w b .red = (w ||| rmask b) &&& ~~~(gmask b) ∧
    update w b .green = (w ||| gmask b) &&& ~~~(rmask b) ∧
    update w b .yellow = w ||| rmask b ||| gmask b ∧
    update w b .off = w &&& ~~~(rmask b) &&& ~~~(gmask b)) ∧
  (∀ (w : Word) (b : BitOffset),
    (w ||| rmask b) &&& ~~~(gmask b) = (w &&& ~~~(gmask b)) ||| rmask b ∧
    (w ||| gmask b) &&& ~~~(rmask b) = (w &&& ~~~(rmask b)) ||| gmask b) ∧
  (∀ (w : Word) (b : BitOffset) (c : Colour),
    w.getLsbD b.val = redVal c → w.getLsbD (b.val + 8) = grnVal c → update w b c = w) ∧
  (∀ (w : Word) (b : BitOffset) (c1 c2 : Colour), update (update w b c1) b c2 = update w b c2) ∧
  (∀ (w : Word) (b1 b2 : BitOffset) (c1 c2 : Colour), b1 ≠ b2 →
    update (update w b1 c1) b2 c2 = update (update w b2 c2) b1 c1) ∧
  (∀ (w : Word) (b : BitOffset) (c : Colour),
    update w b c = (w &&& ~~~(rmask b) &&& ~~~(gmask b)) ||| ((if redVal c then 1#16 else 0#16) <<< b.val)
      ||| ((if grnVal c then 1#16 else 0#16) <<< (b.val + 8))) ∧
  update 0x0000 7 .green = 0x8000 ∧ update 0xFFFF 0 .off = 0xFEFE ∧ update 0x0101 0 .green = 0x0100

/-- 40_mapper.md R57, with D00's second testable property over SETP. -/
def Obligations.SetpWritesOnePhysicalBar : Prop :=
  (∀ (img : Image) (p : Bar) (c : Colour),
    wordAt (setp img p c) (mapGroup p) = update (wordAt img (mapGroup p)) (mapBit p) c ∧
    (∀ g : Group, g ≠ mapGroup p → wordAt (setp img p c) g = wordAt img g)) ∧
  (∀ (img : Image) (p q : Bar) (c d : Colour), p ≠ q →
    setp (setp img p c) q d = setp (setp img q d) p c) ∧
  (∀ (img : Image) (p : Bar),
    let after := setp (setp (setp img p .red) p .green) p .off
    (wordAt after (mapGroup p)).getLsbD (mapBit p).val = false ∧
    (wordAt after (mapGroup p)).getLsbD ((mapBit p).val + 8) = false ∧
    (∀ q : Bar, q ≠ p →
      (wordAt after (mapGroup q)).getLsbD (mapBit q).val = (wordAt img (mapGroup q)).getLsbD (mapBit q).val ∧
      (wordAt after (mapGroup q)).getLsbD ((mapBit q).val + 8) =
        (wordAt img (mapGroup q)).getLsbD ((mapBit q).val + 8)))

/-- 10_state.md R11 and R12: each of the 48 bits belongs to exactly one (bar, plane) pair, so an image is exactly
the colours its 24 bars show. -/
def Obligations.ImageIsDeterminedByItsBars : Prop :=
  (∀ (g : Group) (j : Fin 16), ∃! pq : Bar × Bool,
    mapGroup pq.1 = g ∧ j.val = (mapBit pq.1).val + (if pq.2 then 8 else 0)) ∧
  (∀ a b : Image, (∀ p : Bar, readColour a p = readColour b p) → a = b) ∧
  (∀ colours : Bar → Colour, ∃ img : Image, ∀ p : Bar, readColour img p = colours p)

/-- 40_mapper.md R60(f). -/
def Obligations.PopcountCountsTheLitChannels : Prop :=
  ∀ img : Image, imagePopcount img =
    barsShowing img .red + barsShowing img .green + 2 * barsShowing img .yellow

/-- 40_mapper.md R58: applying a colour to a set of bars equals the lane-mask form. -/
def Obligations.LaneMasksEqualSettingEachBar : Prop :=
  (∀ (bars : Bar → Bool) (i : Group) (b : BitOffset),
    (laneMask bars i).getLsbD b.val = bars (mapInv i b)) ∧
  (∀ (img : Image) (bars : List Bar) (c : Colour),
    setAll img bars c = applyLanes img (laneMask fun p => decide (p ∈ bars)) c) ∧
  (∀ (img : Image) (m : Group → Byte) (c : Colour) (i : Group),
    let red := (wordAt img i).extractLsb' 0 8
    let grn := (wordAt img i).extractLsb' 8 8
    wordAt (applyLanes img m c) i =
      (if grnVal c then grn ||| m i else grn &&& ~~~(m i)) ++ (if redVal c then red ||| m i else red &&& ~~~(m i))) ∧
  (∀ (img : Image) (m : Group → Byte) (c : Colour) (i : Group) (b : BitOffset), (m i).getLsbD b.val = false →
    (wordAt (applyLanes img m c) i).getLsbD b.val = (wordAt img i).getLsbD b.val ∧
    (wordAt (applyLanes img m c) i).getLsbD (b.val + 8) = (wordAt img i).getLsbD (b.val + 8)) ∧
  (∀ (p : Bar) (i : Group),
    laneMask (fun q => decide (q = p)) i = if i = mapGroup p then 1#8 <<< (mapBit p).val else 0)

/-- 41_buffer_commands.md R64: FILL's loop equals one step with the computed lane masks, for every image. -/
def Obligations.FillLoopEqualsLaneMaskForm : Prop :=
  (∀ (z : Bool) (n : Bar) (c : Colour) (img : Image),
    fillUpTo z c img n.val n.isLt = applyLanes img (fillMask z n) c) ∧
  (∀ (z : Bool) (n : Bar) (i : Group), fillMask z n i = laneMask (inFillRange z n) i) ∧
  (∀ (n : Bar) (i : Group), fillMask false n i =
    lowOnes (clampNibble (n.val + 1 - 4 * i.val)) ||| lowOnes (clampNibble (n.val + 1 - 12 - 4 * i.val)) <<< 4) ∧
  (∀ (n : Bar) (i j : Group), i.val + j.val = 2 → fillMask true n i = (fillMask false n j).reverse) ∧
  (fillMask false 13 0 = 0x3F ∧ fillMask false 13 1 = 0x0F ∧ fillMask false 13 2 = 0x0F) ∧
  (fillMask true 5 0 = 0x00 ∧ fillMask true 5 1 = 0xC0 ∧ fillMask true 5 2 = 0xF0)

/-! ### The buffer commands -/

/-- 41_buffer_commands.md R61: CLEAR completes from every state, and this is all it changes. -/
def Obligations.ClearZeroesTheImage : Prop :=
  (∀ s : State, exec .clear s =
    .next { s with image := ⟨0x0000, 0x0000, 0x0000⟩, outputs := some (okPorts .notDriven) }) ∧
  decode (.bm 0x000) = .clear

/-- 41_buffer_commands.md R62 with the mapper outputs of 40_mapper.md R59: what SET does on every bar. -/
def Obligations.SetWritesOneOrientedBar : Prop :=
  (∀ (n : Bar) (c : Colour) (s : State),
    let p := orient s.zeroAtChip n
    exec (.set n.val c) s = .next { s with
      image := setWordAt s.image (mapGroup p) (update (wordAt s.image (mapGroup p)) (mapBit p) c)
      outputs := some (okPorts (.valid (mapperValues s.zeroAtChip n c))) }) ∧
  (∀ (n : Nat) (c : Colour) (s : State), 23 < n →
    exec (.set n c) s = .next { s with outputs := some (errorPorts .outOfRange .invalid) }) ∧
  (∀ (n : Bar) (c : Colour) (s t : State), exec (.set n.val c) s = .next t → ∀ p : Bar,
    readColour t.image p = if p = orient s.zeroAtChip n then c else readColour s.image p) ∧
  (∀ (n : Bar) (c : Colour) (s t : State), exec (.set n.val c) s = .next t →
    readColour s.image (orient s.zeroAtChip n) = c → t.image = s.image) ∧
  (∀ s t : State, s.image = ⟨0x0000, 0x0000, 0x0000⟩ → exec (.set 13 .yellow) s = .next t →
    t.image = if s.zeroAtChip then ⟨0x0000, 0x0000, 0x0404⟩ else ⟨0x2020, 0x0000, 0x0000⟩)

/-- 40_mapper.md R56 and 20_memory.md section 3: a SET changes no bit of the image but the bar's two. -/
def Obligations.SetPerturbsNoOtherBit : Prop :=
  ∀ (n : Bar) (c : Colour) (s t : State), exec (.set n.val c) s = .next t → ∀ (g : Group) (j : Nat),
    ¬ (g = mapGroup (orient s.zeroAtChip n) ∧
      (j = (mapBit (orient s.zeroAtChip n)).val ∨ j = (mapBit (orient s.zeroAtChip n)).val + 8)) →
    (wordAt t.image g).getLsbD j = (wordAt s.image g).getLsbD j

/-- 41_buffer_commands.md R63: FILL completes from every state; on a legal bar exactly the bars of its range take
the colour and the others keep theirs; an illegal bar writes nothing. -/
def Obligations.FillColoursExactlyItsRange : Prop :=
  (∀ (n : Bar) (c : Colour) (s : State), ∃ img : Image,
    exec (.fill n.val c) s = .next { s with
      image := img
      outputs := some (okPorts (.valid (mapperValues s.zeroAtChip n c))) } ∧
    (∀ p : Bar, readColour img p =
      if inFillRange s.zeroAtChip n p then c else readColour s.image p)) ∧
  (∀ (n : Nat) (c : Colour) (s : State), 23 < n →
    exec (.fill n c) s = .next { s with outputs := some (errorPorts .outOfRange .invalid) })

/-- 41_buffer_commands.md R63, corner cases: FILL equals the SETs of its logical bars in any order, FILL 0 equals
SET 0, and FILL 23 gives every word the colour's two planes. -/
def Obligations.FillEqualsItsSetsInAnyOrder : Prop :=
  (∀ (n : Bar) (c : Colour) (s t : State) (order : List Bar),
    exec (.fill n.val c) s = .next t → (∀ k : Bar, k ∈ order ↔ k.val ≤ n.val) →
    ∃ u : State, order.foldl
      (fun (o : Host.Outcome State Fault Refusal) (k : Bar) =>
        match o with
        | .next v => exec (.set k.val c) v
        | .fault r => .fault r
        | .refused r => .refused r) (.next s) = .next u ∧
      u.image = t.image ∧ u.pwr = t.pwr ∧ u.sent = t.sent) ∧
  (∀ (c : Colour) (s : State), exec (.fill 0 c) s = exec (.set 0 c) s) ∧
  (∀ (c : Colour) (s t : State), exec (.fill 23 c) s = .next t → ∀ g : Group,
    wordAt t.image g =
      (if grnVal c then 0xFF#8 else 0x00#8) ++ (if redVal c then 0xFF#8 else 0x00#8))

/-- 41_buffer_commands.md R65 and 20_memory.md R25: DRAW completes from every state with the seven bytes of the
image, low byte first, and changes nothing but the record of writes and the ports. -/
def Obligations.DrawSendsTheImageLittleEndian : Prop :=
  (∀ s : State, exec .draw s = .next (afterWrite s
    [0x00, s.image.w0.extractLsb' 0 8, s.image.w0.extractLsb' 8 8,
      s.image.w1.extractLsb' 0 8, s.image.w1.extractLsb' 8 8,
      s.image.w2.extractLsb' 0 8, s.image.w2.extractLsb' 8 8] none)) ∧
  (∀ s t : State, s.image = ⟨0x0000, 0xC000, 0xF000⟩ → exec .draw s = .next t →
    t.outputs.bind Outputs.outBytes = some [0x00, 0x00, 0x00, 0x00, 0xC0, 0x00, 0xF0]) ∧
  (∀ s t u : State, exec .clear s = .next t → exec .draw t = .next u →
    u.outputs.bind Outputs.outBytes = some [0x00, 0x00, 0x00, 0x00, 0x00, 0x00, 0x00]) ∧
  decode (.bm 0x180) = .draw

/-- 20_memory.md R28: CLEAR, SET and FILL issued twice leave what one issue leaves; a second DRAW leaves the image
and sends the same write again. -/
def Obligations.BufferCommandsAreIdempotent : Prop :=
  (∀ (i : Instr) (s t : State), WritesImage i → exec i s = .next t → exec i t = .next t) ∧
  (∀ s t : State, exec .draw s = .next t → ∃ (w : BusWrite) (u : State),
    exec .draw t = .next u ∧ u.image = s.image ∧ t.sent = s.sent ++ [w] ∧ u.sent = s.sent ++ [w, w])

/-! ### Unit CE -/

/-- 42_command_encoder.md R71. -/
def Obligations.CommandBytesAreTheChips : Prop :=
  oscOn = 0x21 ∧ oscOff = 0x20 ∧ dispOn = 0x81 ∧ dispOff = 0x80 ∧ pad = 0x00 ∧ ramStart = 0x00 ∧
  ([0, 1, 2, 3].map blinkByte) = [0x81, 0x83, 0x85, 0x87] ∧
  ((List.range 16).map fun l => dimByte (Int.ofNat l)) =
    [0xE0, 0xE1, 0xE2, 0xE3, 0xE4, 0xE5, 0xE6, 0xE7, 0xE8, 0xE9, 0xEA, 0xEB, 0xEC, 0xED, 0xEE, 0xEF]

/-- 42_command_encoder.md R68: PWRON completes from every state, oscillator byte before display byte. -/
def Obligations.PwronSendsOscillatorThenDisplay : Prop :=
  (∀ s : State, exec .pwron s = .next (afterWrite
    { s with pwr := if s.xportFail then .unknown else .on } [0x21, 0x81] none)) ∧
  decode (.ce 0x000) = .pwron

/-- 42_command_encoder.md R69: PWROFF completes from every state, display byte before oscillator byte. -/
def Obligations.PwroffSendsDisplayThenOscillator : Prop :=
  (∀ s : State, exec .pwroff s = .next (afterWrite
    { s with pwr := if s.xportFail then .unknown else .off } [0x80, 0x20] none)) ∧
  decode (.ce 0x100) = .pwroff

/-- 42_command_encoder.md R70, the state machine in full. -/
def Obligations.PowerStateMachine : Prop :=
  State.reset.pwr = .unknown ∧
  (∀ s t : State, exec .pwron s = .next t → t.pwr = if s.xportFail then .unknown else .on) ∧
  (∀ s t : State, exec .pwroff s = .next t → t.pwr = if s.xportFail then .unknown else .off) ∧
  (∀ (i : Instr) (s t : State), i ≠ .pwron → i ≠ .pwroff → exec i s = .next t → t.pwr = s.pwr) ∧
  (∀ (level : Int) (z f1 f2 : Bool) (s t : State), runInit level z f1 f2 s = .next t →
    t.pwr = if f1 then .unknown else .on) ∧
  (∀ (i : Instr) (s : State) (p : Power), ∃ t u : State, exec i s = .next t ∧
    exec i { s with pwr := p } = .next u ∧ u.image = t.image ∧ u.outputs = t.outputs ∧ u.sent = t.sent)

/-- 42_command_encoder.md R72: BRIGHT completes for every level and every state, with the level clamped. -/
def Obligations.BrightClampsAndSends : Prop :=
  (∀ (level : Int) (s : State), ∃ lvl : Nat,
    (lvl : Int) = (if level < 0 then 0 else if level > 15 then 15 else level) ∧
    0xE0#8 ||| BitVec.ofNat 8 lvl = 0xE0#8 + BitVec.ofNat 8 lvl ∧
    exec (.bright level) s = .next (afterWrite s [0xE0#8 ||| BitVec.ofNat 8 lvl, 0x00]
      (some (decide (level < 0 ∨ level > 15))))) ∧
  (∀ s : State, exec (.bright 20) s = .next (afterWrite s [0xEF, 0x00] (some true)) ∧
    exec (.bright (-1)) s = .next (afterWrite s [0xE0, 0x00] (some true)) ∧
    exec (.bright 0) s = .next (afterWrite s [0xE0, 0x00] (some false)) ∧
    exec (.bright 15) s = .next (afterWrite s [0xEF, 0x00] (some false)))

/-- 42_command_encoder.md R73 and R74: BLINK completes for every rate and every state; an unsupported rate sends
nothing. -/
def Obligations.BlinkSendsTheTableByte : Prop :=
  ∀ s : State,
    exec (.blink 0) s = .next (afterWrite s [0x81, 0x00] none) ∧
    exec (.blink 4) s = .next (afterWrite s [0x83, 0x00] none) ∧
    exec (.blink 2) s = .next (afterWrite s [0x85, 0x00] none) ∧
    exec (.blink 1) s = .next (afterWrite s [0x87, 0x00] none) ∧
    (∀ rate2 : Nat, ¬ SupportedRate rate2 →
      exec (.blink rate2) s = .next { s with outputs := some (errorPorts .invalidRate .notDriven) })

/-- 30_encoding.md R46: INIT's expansion. -/
def Obligations.InitPowersOnThenSetsBrightness : Prop :=
  ∀ (level : Int) (z f1 f2 : Bool) (s : State), ∃ t : State, runInit level z f1 f2 s = .next t ∧
    t.image = s.image ∧ t.zeroAtChip = z ∧
    (f1 = true → statusOf t = some .transportError ∧
      t.sent = s.sent ++ [⟨0xE0, [0x21, 0x81], true⟩]) ∧
    (f1 = false → exec (.bright level)
      { s with
        zeroAtChip := z, pwr := .on, xportFail := f2
        outputs := some (sentPorts false [0x21, 0x81] none)
        sent := s.sent ++ [⟨0xE0, [0x21, 0x81], false⟩] } = .next t)

/-! ### Errors and results -/

/-- 60_exceptions.md R79. -/
def Obligations.OutOfRangeExactlyOnIllegalBars : Prop :=
  (∀ (i : Instr) (s t : State), exec i s = .next t →
    (statusOf t = some .outOfRange ↔ ∃ n c, IsBarCommand i n c ∧ 23 < n)) ∧
  (∀ (i : Instr) (s t : State), exec i s = .next t → statusOf t = some .outOfRange →
    t.image = s.image ∧ t.sent = s.sent ∧ t.pwr = s.pwr ∧ t.outputs.bind Outputs.outBytes = none) ∧
  decode (.bm 0x0B8) = .set 24 .red ∧ decode (.bm 0x0BF) = .set 31 .red

/-- 60_exceptions.md R80. -/
def Obligations.InvalidRateOnlyFromBlink : Prop :=
  (∀ (i : Instr) (s t : State), exec i s = .next t →
    (statusOf t = some .invalidRate ↔ ∃ r, i = .blink r ∧ ¬ SupportedRate r)) ∧
  (∀ (i : Instr) (s t : State), exec i s = .next t → statusOf t = some .invalidRate →
    t.image = s.image ∧ t.sent = s.sent ∧ t.pwr = s.pwr ∧ t.outputs.bind Outputs.outBytes = none) ∧
  decode (.ce 0x306) = .blink 6

/-- 60_exceptions.md R81: TransportError belongs to the commands that emit, exactly when the transport fails. -/
def Obligations.TransportErrorOnlyFromFailedWrites : Prop :=
  (∀ (i : Instr) (s t : State), exec i s = .next t →
    (statusOf t = some .transportError ↔
      s.xportFail = true ∧ ¬ WritesImage i ∧ ¬ ∃ r, i = .blink r ∧ ¬ SupportedRate r)) ∧
  (∀ (i : Instr) (s t : State), exec i s = .next t → statusOf t = some .transportError →
    t.image = s.image ∧
    t.pwr = (if i = .pwron ∨ i = .pwroff then .unknown else s.pwr) ∧
    ∃ w, t.sent = s.sent ++ [w] ∧ w.failed = true)

/-- 60_exceptions.md R83. -/
def Obligations.DiagnosticOnlyFromBright : Prop :=
  (∀ (i : Instr) (s t : State), exec i s = .next t → (∀ level, i ≠ .bright level) →
    t.outputs.bind Outputs.diagClamped = none) ∧
  (∀ (level : Int) (s t : State), exec (.bright level) s = .next t →
    t.outputs.bind Outputs.diagClamped = some (decide (level < 0 ∨ level > 15)) ∧
    (level < 0 ∨ level > 15 ↔ clampLevel level ≠ level)) ∧
  (∀ (level : Int) (s t u : State), exec (.bright level) s = .next t →
    exec (.bright (clampLevel level)) s = .next u →
    statusOf t = statusOf u ∧ t.outputs.bind Outputs.outBytes = u.outputs.bind Outputs.outBytes ∧
    t.image = u.image ∧ t.pwr = u.pwr ∧ t.sent = u.sent)

/-- 30_encoding.md R37: which results each command yields. -/
def Obligations.EachCommandYieldsItsPorts : Prop :=
  ∀ (i : Instr) (s t : State), exec i s = .next t → ∃ o : Outputs, t.outputs = some o ∧
    (o.mapper ≠ .notDriven ↔ ∃ n c, IsBarCommand i n c) ∧
    (o.outBytes.isSome = true ↔ ¬ WritesImage i ∧ o.status ≠ .outOfRange ∧ o.status ≠ .invalidRate) ∧
    (o.outBytes.isSome = true → outLen o = some (if i = .draw then 7 else 2)) ∧
    (o.outBytes.isSome = true → o.status = if s.xportFail then .transportError else .ok) ∧
    (o.diagClamped.isSome = true ↔ ∃ level, i = .bright level)

/-- 40_mapper.md R59: the mapper outputs of SET and FILL, value by value, and of no other command. -/
def Obligations.MapperOutputsDescribeTheOperandsBar : Prop :=
  (∀ (i : Instr) (n : Bar) (c : Colour) (s t : State), IsBarCommand i n.val c → exec i s = .next t →
    let p := orient s.zeroAtChip n
    t.outputs.map Outputs.mapper = some (.valid
      { phys := BitVec.ofNat 5 p.val
        wordSel := BitVec.ofNat 2 (mapBar p).1.val
        bitOff := BitVec.ofNat 3 (mapBar p).2.val
        redPos := BitVec.ofNat 4 (mapBar p).2.val
        grnPos := BitVec.ofNat 4 ((mapBar p).2.val + 8)
        redVal := BitVec.ofBool (redVal c)
        grnVal := BitVec.ofBool (grnVal c)
        redMask := 1#16 <<< (mapBar p).2.val
        grnMask := 1#16 <<< ((mapBar p).2.val + 8) })) ∧
  (∀ v : MapperValues, validPort (.valid v) = some 1) ∧ validPort .invalid = some 0 ∧
  (∀ (i : Instr) (n : Nat) (c : Colour) (s t : State), IsBarCommand i n c → 23 < n → exec i s = .next t →
    t.outputs.map Outputs.mapper = some .invalid) ∧
  (∀ (i : Instr) (s t : State), (∀ n c, ¬ IsBarCommand i n c) → exec i s = .next t →
    t.outputs.map Outputs.mapper = some .notDriven)

/-- 60_exceptions.md R86: an operand error ends the command before it has had any effect; the run goes on. -/
def Obligations.OperandErrorsChangeOnlyTheStatus : Prop :=
  ∀ (i : Instr) (s t : State), exec i s = .next t →
    (statusOf t = some .outOfRange ∨ statusOf t = some .invalidRate) →
    { t with outputs := s.outputs } = s

/-! ### The whole machine -/

/-- 00_scope.md R9: with a request presented, a step is exec of its decoded command, at the state in which the
inputs have the request's levels and the later requests remain to come. -/
def Obligations.StepRunsTheDecodedCommand : Prop :=
  ∀ (s : State) (r : Request) (rest : List Request), s.pending = r :: rest →
    step s = exec (decode r.word)
      { s with zeroAtChip := r.zeroAtChip, xportFail := r.xportFail, pending := rest }

/-- 30_encoding.md section 1: "When the caller presents no command, nothing happens".  That the result ports then
show no result is the model's choice (assumption 5). -/
def Obligations.NothingPresentedNothingHappens : Prop :=
  ∀ s : State, s.pending = [] → step s = .next { s with outputs := none }

/-- 30_encoding.md section 3 and 60_exceptions.md section 1: the opcode map is complete and no error is fatal, so
every command and every step answers a next state. -/
def Obligations.EveryCommandAndStepCompletes : Prop :=
  (∀ (i : Instr) (s : State), ∃ t, exec i s = .next t ∧ t.outputs.isSome = true) ∧
  (∀ s : State, ∃ t, step s = .next t)

/-- 70_reset_and_hazards.md R93, 10_state.md R21: the values the spec gives for reset. -/
def Obligations.ResetLeavesTheSpecsValues : Prop :=
  State.reset.image.w0 = 0x0000 ∧ State.reset.image.w1 = 0x0000 ∧ State.reset.image.w2 = 0x0000 ∧
  State.reset.pwr = .unknown ∧ State.reset.outputs = none ∧ State.reset.sent = []

/-- The frame of every command over the whole state (10_state.md R10, R15, R16): the image only by CLEAR, SET and
FILL, `PWR` only by the power commands, the inputs and the commands to come by none.  The record of writes (assumption
6) grows only by a command that emits (60_exceptions.md R81), by one write at its end (42_command_encoder.md R67) to the
device address (R76). -/
def Obligations.CommandsWriteOnlyTheirState : Prop :=
  ∀ (i : Instr) (s t : State), exec i s = .next t →
    (¬ WritesImage i → t.image = s.image) ∧
    (i ≠ .pwron → i ≠ .pwroff → t.pwr = s.pwr) ∧
    t.zeroAtChip = s.zeroAtChip ∧ t.xportFail = s.xportFail ∧ t.pending = s.pending ∧
    (WritesImage i → t.sent = s.sent) ∧
    (t.sent = s.sent ∨ ∃ payload, t.sent = s.sent ++ [⟨0xE0, payload, s.xportFail⟩])

/-- 10_state.md R15: CLEAR, DRAW and every CE command ignore the strap, and no command writes it. -/
def Obligations.StrapIsReadOnlyBySetAndFill : Prop :=
  (∀ (i : Instr) (s t : State) (z : Bool), (∀ n c, ¬ IsBarCommand i n c) → exec i s = .next t →
    exec i { s with zeroAtChip := z } = .next { t with zeroAtChip := z }) ∧
  (∀ (i : Instr) (s t : State), exec i s = .next t → t.zeroAtChip = s.zeroAtChip)

/-- 10_state.md R16, R18 and R20: no command reads an earlier command's results, `PWR`, or what was sent before. -/
def Obligations.ResultsPowerAndHistoryAreNeverRead : Prop :=
  (∀ (i : Instr) (s : State) (o : Option Outputs), exec i { s with outputs := o } = exec i s) ∧
  (∀ (i : Instr) (s t : State) (p : Power) (ws : List BusWrite), exec i s = .next t →
    ∃ (u : State) (new : List BusWrite), exec i { s with pwr := p, sent := ws } = .next u ∧
      u.image = t.image ∧ u.outputs = t.outputs ∧ t.sent = s.sent ++ new ∧ u.sent = ws ++ new ∧
      (i = .pwron ∨ i = .pwroff → u.pwr = t.pwr))

/-- 70_reset_and_hazards.md R99: a presented SET or FILL of a legal bar, the two commands that read the strap, uses
the strap it is presented with, whatever the level before; bars it does not address keep their physical places. -/
def Obligations.PresentedSetAndFillUseTheirOwnStrap : Prop :=
  ∀ (s : State) (n : Bar) (c : Colour) (z f : Bool) (rest : List Request),
    (∃ t : State, step { s with pending := ⟨encode (.set n.val c), z, f⟩ :: rest } = .next t ∧ t.pending = rest ∧
      (∀ p : Bar, readColour t.image p = if p = orient z n then c else readColour s.image p)) ∧
    (∃ t : State, step { s with pending := ⟨encode (.fill n.val c), z, f⟩ :: rest } = .next t ∧ t.pending = rest ∧
      (∀ p : Bar, readColour t.image p = if inFillRange z n p then c else readColour s.image p))

/-- 10_state.md R20 and 70_reset_and_hazards.md R102: the payload of the last successful DRAW, read from the model's
record of writes, changes at a DRAW that ends with status OK, to the bytes of the image it serialised, and at no other
command.  What the device holds is not claimed: it is outside the model and unknown after a failed DRAW (assumption
10, DEDUCED). -/
def Obligations.LastSuccessfulPayloadChangesOnlyAtDraw : Prop :=
  (∀ (i : Instr) (s t : State), i ≠ .draw → exec i s = .next t → lastDrawn t.sent = lastDrawn s.sent) ∧
  (∀ s t : State, exec .draw s = .next t → lastDrawn t.sent =
    if s.xportFail then lastDrawn s.sent else some (drawBytes s.image))

/-- 70_reset_and_hazards.md R94: CLEAR gives the reset image and keeps `PWR`; only a failed power command makes
`PWR` Unknown again. -/
def Obligations.OnlyFailedPowerCommandsForgetThePower : Prop :=
  (∀ s t : State, exec .clear s = .next t → t.image = State.reset.image ∧ t.pwr = s.pwr) ∧
  (∀ (i : Instr) (s t : State), exec i s = .next t → s.pwr ≠ .unknown → t.pwr = .unknown →
    (i = .pwron ∨ i = .pwroff) ∧ s.xportFail = true)

/-- D00's second testable property over commands (40_mapper.md section 6, 95_test_vectors.md S2): SET of one bar to
Red, Green and Off in turn leaves that bar Off and every other bar as it was. -/
def Obligations.RedGreenOffLeavesNoCrossTalk : Prop :=
  ∀ (n : Bar) (s : State), ∃ t u v : State,
    exec (.set n.val .red) s = .next t ∧ exec (.set n.val .green) t = .next u ∧
    exec (.set n.val .off) u = .next v ∧
    (∀ p : Bar, readColour v.image p =
      if p = orient s.zeroAtChip n then .off else readColour s.image p)

/-! ### Invariants and runs -/

/-- Every step keeps: all writes went to the device address with a payload the spec allows (42_command_encoder.md
R67, R71, R75, R76; the power order of 70_reset_and_hazards.md R101 among them). -/
def Obligations.StepKeepsWritesLegal : Prop :=
  ∀ s t : State, WritesLegal s → step s = .next t → WritesLegal t

/-- Reset has sent nothing. -/
def Obligations.ResetWritesLegal : Prop := WritesLegal State.reset

/-- Every step keeps: `PWR` is what the writes so far told the device (10_state.md R16, 42_command_encoder.md R70). -/
def Obligations.StepKeepsPowerTrackingWrites : Prop :=
  ∀ s t : State, PowerTracksWrites s → step s = .next t → PowerTracksWrites t

/-- At reset nothing was told, and `PWR` is Unknown. -/
def Obligations.ResetPowerTracksWrites : Prop := PowerTracksWrites State.reset

/-- 20_memory.md section 6: from any state a run of as many steps as commands are presented completes and ends with
none left; the writes made before it stay, in their order, and at most one per command follows them. -/
def Obligations.PresentedCommandsRunToCompletion : Prop :=
  ∀ s : State, ∃ (t : State) (new : List BusWrite),
    Sys2Proof.core.run s.pending.length s = .next t ∧ t.pending = [] ∧ t.sent = s.sent ++ new ∧
    new.length ≤ s.pending.length

/-- 10_state.md R13: every image can be reached by SET commands, from any image (the reset image among them) and
under any strap. -/
def Obligations.EveryImageIsReachableBySet : Prop :=
  ∀ (s : State) (target : Image) (z : Bool), ∃ cmds : List Request,
    (∀ r ∈ cmds, r.zeroAtChip = z ∧ ∃ n c, decode r.word = .set n c) ∧
    ∃ t : State, Sys2Proof.core.run cmds.length { s with pending := cmds } = .next t ∧
      t.image = target ∧ t.pwr = s.pwr ∧ t.sent = s.sent
end

