-- ==== Sys2Proof/Laws/Encoding.lean ====
section
/-!
SUPPORT. The small facts about fields and well-formedness that statements about decode and encode rest on.
-/

namespace Sys2Proof

theorem wf_set_iff (n : Nat) (c : Colour) : (Instr.set n c).wf = true ↔ n < 32 :=
  decide_eq_true_iff

theorem wf_fill_iff (n : Nat) (c : Colour) : (Instr.fill n c).wf = true ↔ n < 32 :=
  decide_eq_true_iff

theorem wf_bright_iff (level : Int) : (Instr.bright level).wf = true ↔ -128 ≤ level ∧ level < 128 :=
  (Bool.and_eq_true_iff).trans (and_congr decide_eq_true_iff decide_eq_true_iff)

theorem wf_blink_iff (rate2 : Nat) : (Instr.blink rate2).wf = true ↔ rate2 < 256 :=
  decide_eq_true_iff

theorem colourOfCode_colourCode (c : Colour) : colourOfCode (colourCode c) = c := by
  cases c <;> rfl

/-- The fields of a Format B word made from fields (30_encoding.md R35). -/
theorem fields_formatB (op colour : BitVec 2) (bar : BitVec 5) :
    fieldOp (formatB op colour bar) = op ∧ fieldColour (formatB op colour bar) = colour ∧
      fieldBar (formatB op colour bar) = bar := by
  revert op colour bar; decide

/-- The fields of a Format C word made from fields (30_encoding.md R36). -/
theorem fields_formatC (cop : BitVec 2) (arg : BitVec 8) :
    fieldCop (formatC cop arg) = cop ∧ fieldArg (formatC cop arg) = arg := by
  constructor <;> apply BitVec.eq_of_getLsbD_eq <;> intro j hj
  · simp only [fieldCop, formatC, BitVec.getLsbD_extractLsb', BitVec.getLsbD_append]
    rw [if_neg (by omega), Nat.add_sub_cancel_left, decide_eq_true hj, Bool.true_and]
  · simp only [fieldArg, formatC, BitVec.getLsbD_extractLsb', BitVec.getLsbD_append]
    rw [if_pos (by omega), Nat.zero_add, decide_eq_true hj, Bool.true_and]

end Sys2Proof
end

