-- ==== Sys2Proof/Laws/Operands.lean ====
section
/-!
SUPPORT. What the combinational functions of Operands.lean compute, one lemma per function.
-/

namespace Sys2Proof.Machine

theorem validBar_of_lt {n : Nat} (h : n < 24) : validBar n = some ⟨n, h⟩ := dif_pos h

theorem validBar_of_ge {n : Nat} (h : 24 ≤ n) : validBar n = none := dif_neg (Nat.not_lt.mpr h)

theorem validBar_eq_some {n : Nat} {b : Bar} (h : validBar n = some b) : n = b.val := by
  unfold validBar at h
  split at h
  · exact congrArg Fin.val (Option.some.inj h)
  · cases h

theorem orient_orient (z : Bool) (n : Bar) : orient z (orient z n) = n := by
  revert z n; decide

theorem orient_injective (z : Bool) : Function.Injective (orient z) :=
  Function.LeftInverse.injective (orient_orient z)

theorem mapInv_map (p : Bar) : mapInv (mapGroup p) (mapBit p) = p := by
  revert p; decide

theorem mapGroup_mapInv (g : Group) (b : BitOffset) : mapGroup (mapInv g b) = g := by
  revert g b; decide

theorem mapBit_mapInv (g : Group) (b : BitOffset) : mapBit (mapInv g b) = b := by
  revert g b; decide

/-- Two physical bars at the same place are the same bar. -/
theorem bar_eq_of_place_eq {p q : Bar} (hg : mapGroup p = mapGroup q) (hb : mapBit p = mapBit q) : p = q := by
  rw [← mapInv_map p, ← mapInv_map q, hg, hb]

theorem getLsbD_rmask (b : BitOffset) (j : Nat) : (rmask b).getLsbD j = decide (j = b.val) := by
  have := b.isLt
  simp only [rmask, BitVec.getLsbD_shiftLeft, BitVec.getLsbD_one]
  rw [Bool.eq_iff_iff]
  simp
  omega

theorem getLsbD_gmask (b : BitOffset) (j : Nat) : (gmask b).getLsbD j = decide (j = b.val + 8) := by
  have := b.isLt
  simp only [gmask, BitVec.getLsbD_shiftLeft, BitVec.getLsbD_one]
  rw [Bool.eq_iff_iff]
  simp
  omega

theorem bitWord_shift (v : Bool) (k : Nat) : bitWord v <<< k = if v then 1#16 <<< k else 0 := by
  cases v <;> simp [bitWord]

/-- Every bit of an updated word (R56). -/
theorem getLsbD_update (w : Word) (b : BitOffset) (c : Colour) (j : Nat) :
    (update w b c).getLsbD j =
      if j = b.val then redVal c else if j = b.val + 8 then grnVal c else w.getLsbD j := by
  have hb := b.isLt
  have hr : ∀ v : Bool, ((if v then rmask b else 0 : Word)).getLsbD j = (v && decide (j = b.val)) := by
    intro v; cases v <;> simp [getLsbD_rmask]
  have hg : ∀ v : Bool, ((if v then gmask b else 0 : Word)).getLsbD j = (v && decide (j = b.val + 8)) := by
    intro v; cases v <;> simp [getLsbD_gmask]
  have hu : update w b c = (w &&& ~~~(rmask b) &&& ~~~(gmask b)) ||| (if redVal c then rmask b else 0)
      ||| (if grnVal c then gmask b else 0) := by
    simp only [update, bitWord_shift, rmask, gmask]
  rw [hu]
  simp only [BitVec.getLsbD_or, BitVec.getLsbD_and, BitVec.getLsbD_not, hr, hg, getLsbD_rmask, getLsbD_gmask]
  by_cases h1 : j = b.val
  · subst h1
    simp
  · by_cases h2 : j = b.val + 8
    · subst h2
      simp
    · by_cases h3 : j < 16
      · simp [h1, h2, h3]
      · simp [h1, h2, BitVec.getLsbD_of_ge w j (by omega)]

theorem colourOfBits_vals (c : Colour) : colourOfBits (redVal c) (grnVal c) = c := by
  cases c <;> rfl

theorem redVal_colourOfBits (r g : Bool) : redVal (colourOfBits r g) = r := by
  cases r <;> cases g <;> rfl

theorem grnVal_colourOfBits (r g : Bool) : grnVal (colourOfBits r g) = g := by
  cases r <;> cases g <;> rfl

theorem getLsbD_lowByte (w : Word) (j : Nat) : (lowByte w).getLsbD j = (decide (j < 8) && w.getLsbD j) := by
  simp [lowByte, BitVec.getLsbD_extractLsb']

theorem getLsbD_highByte (w : Word) (j : Nat) :
    (highByte w).getLsbD j = (decide (j < 8) && w.getLsbD (8 + j)) := by
  simp [highByte, BitVec.getLsbD_extractLsb']

theorem getLsbD_laneMask (bars : Bar → Bool) (i : Group) (b : BitOffset) :
    (laneMask bars i).getLsbD b.val = bars (mapInv i b) := by
  simp [laneMask]

theorem clampLevel_range (level : Int) : 0 ≤ clampLevel level ∧ clampLevel level ≤ 15 := by
  unfold clampLevel
  split
  · omega
  · split <;> omega

/-- The diagnostic says exactly that clamping changes the level (R83). -/
theorem diagOfLevel_iff (level : Int) : diagOfLevel level = true ↔ clampLevel level ≠ level := by
  simp only [diagOfLevel, Bool.or_eq_true, decide_eq_true_eq, clampLevel]
  split
  · omega
  · split <;> omega

/-- The supported rates (R74). -/
theorem blinkIndex_eq_none {rate2 : Nat} :
    blinkIndex rate2 = none ↔ rate2 ≠ 0 ∧ rate2 ≠ 1 ∧ rate2 ≠ 2 ∧ rate2 ≠ 4 := by
  unfold blinkIndex
  split
  · simp [*]
  · split
    · simp [*]
    · split
      · simp [*]
      · split <;> simp [*]

end Sys2Proof.Machine
end

