-- ==== Sys2Proof/Laws/Ops.lean ====
section
/-!
SUPPORT. What the operations over the register image do: read after write, and SETP and FILL bit by bit.
-/

namespace Sys2Proof.Machine

@[simp] theorem wordAt_setWordAt_same (img : Image) (g : Group) (v : Word) :
    wordAt (setWordAt img g v) g = v := by
  fin_cases g <;> rfl

theorem wordAt_setWordAt_other (img : Image) {g h : Group} (v : Word) (hne : h ≠ g) :
    wordAt (setWordAt img g v) h = wordAt img h := by
  fin_cases g <;> fin_cases h <;> first | rfl | exact absurd rfl hne

/-- Two images whose words agree are equal. -/
theorem image_ext {a b : Image} (h : ∀ g : Group, wordAt a g = wordAt b g) : a = b := by
  cases a
  cases b
  have h0 := h 0
  have h1 := h 1
  have h2 := h 2
  simp only [wordAt] at h0 h1 h2
  subst h0 h1 h2
  rfl

/-- Two images whose 48 bits agree are equal. -/
theorem image_ext_bits {a b : Image}
    (h : ∀ (g : Group) (j : Nat), j < 16 → (wordAt a g).getLsbD j = (wordAt b g).getLsbD j) : a = b :=
  image_ext fun g => BitVec.eq_of_getLsbD_eq fun j hj => h g j hj

/-- Every bit after SETP (R57): the bar's two bits take the colour's values, all others stay. -/
theorem getLsbD_setp (img : Image) (p : Bar) (c : Colour) (g : Group) (j : Nat) :
    (wordAt (setp img p c) g).getLsbD j =
      if g = mapGroup p then
        (if j = (mapBit p).val then redVal c
          else if j = (mapBit p).val + 8 then grnVal c else (wordAt img g).getLsbD j)
      else (wordAt img g).getLsbD j := by
  unfold setp
  by_cases h : g = mapGroup p
  · subst h
    simp only [wordAt_setWordAt_same, getLsbD_update, if_true]
  · rw [if_neg h, wordAt_setWordAt_other _ _ h]

/-- The colour read back after SETP (40_mapper.md R60(e)). -/
theorem readColour_setp (img : Image) (p q : Bar) (c : Colour) :
    readColour (setp img p c) q = if q = p then c else readColour img q := by
  have hp := (mapBit p).isLt
  have hq := (mapBit q).isLt
  by_cases h : q = p
  · subst h
    rw [if_pos rfl]
    simp only [readColour, getLsbD_setp, if_true, if_neg (show ¬ (mapBit q).val + 8 = (mapBit q).val by omega)]
    exact colourOfBits_vals c
  · rw [if_neg h]
    simp only [readColour, getLsbD_setp]
    by_cases hg : mapGroup q = mapGroup p
    · have hb : (mapBit q).val ≠ (mapBit p).val := fun hb => h (bar_eq_of_place_eq hg (Fin.ext hb))
      rw [if_pos hg, if_pos hg, if_neg hb, if_neg (by omega), if_neg (by omega), if_neg (by omega)]
    · rw [if_neg hg, if_neg hg]

/-- An image is what its bars show: every bit belongs to one (bar, plane) pair (10_state.md R12). -/
theorem image_ext_colours {a b : Image} (h : ∀ p : Bar, readColour a p = readColour b p) : a = b := by
  refine image_ext_bits fun g j hj => ?_
  have key : ∀ p : Bar,
      (wordAt a (mapGroup p)).getLsbD (mapBit p).val = (wordAt b (mapGroup p)).getLsbD (mapBit p).val ∧
      (wordAt a (mapGroup p)).getLsbD ((mapBit p).val + 8) =
        (wordAt b (mapGroup p)).getLsbD ((mapBit p).val + 8) := by
    intro p
    have hr := congrArg redVal (h p)
    have hg := congrArg grnVal (h p)
    simp only [readColour, redVal_colourOfBits, grnVal_colourOfBits] at hr hg
    exact ⟨hr, hg⟩
  by_cases h8 : j < 8
  · have := (key (mapInv g ⟨j, h8⟩)).1
    rwa [mapGroup_mapInv, mapBit_mapInv] at this
  · have := (key (mapInv g ⟨j - 8, by omega⟩)).2
    rw [mapGroup_mapInv, mapBit_mapInv] at this
    simpa only [show j - 8 + 8 = j by omega] using this

/-- The colours after SETP over a list: the listed bars take the colour, the others keep theirs. -/
theorem readColour_setAll (bars : List Bar) (img : Image) (c : Colour) (q : Bar) :
    readColour (setAll img bars c) q = if q ∈ bars then c else readColour img q := by
  induction bars generalizing img with
  | nil => rfl
  | cons p ps ih =>
    simp only [setAll, List.foldl_cons, List.mem_cons] at ih ⊢
    rw [ih, readColour_setp]
    by_cases h1 : q ∈ ps <;> by_cases h2 : q = p <;> simp [h1, h2]

/-- The colours after FILL's loop (R63): the bars whose logical number is at most `n` take the colour. -/
theorem readColour_fillUpTo (z : Bool) (c : Colour) (img : Image) (n : Nat) (h : n < 24) (q : Bar) :
    readColour (fillUpTo z c img n h) q =
      if (orient z q).val ≤ n then c else readColour img q := by
  have key : ∀ (k : Nat) (hk : k < 24), (q = orient z ⟨k, hk⟩) ↔ (orient z q).val = k := by
    intro k hk
    constructor
    · intro hq
      rw [hq, orient_orient]
    · intro hq
      have : orient z q = ⟨k, hk⟩ := Fin.ext hq
      rw [← this, orient_orient]
  induction n with
  | zero =>
    simp only [fillUpTo, readColour_setp, key, Nat.le_zero]
  | succ n ih =>
    simp only [fillUpTo, readColour_setp, key]
    rw [ih (Nat.lt_of_succ_lt h)]
    by_cases h1 : (orient z q).val = n + 1
    · rw [if_pos h1, if_pos (by omega)]
    · by_cases h2 : (orient z q).val ≤ n
      · rw [if_neg h1, if_pos h2, if_pos (by omega)]
      · rw [if_neg h1, if_neg h2, if_neg (by omega)]

end Sys2Proof.Machine
end

