-- ==== Sys2Proof/Laws/State.lean ====
section
/-!
SUPPORT. What each shared update does to each field of State, one lemma per field per update.
-/

namespace Sys2Proof.Machine

section
variable (o : Outputs) (payload : List Byte) (d : Option Bool) (e : Status) (m : MapperPorts) (img : Image)
variable (r : Request) (rest : List Request) (s : State)

@[simp] theorem report_image : (report o s).image = s.image := rfl
@[simp] theorem report_pwr : (report o s).pwr = s.pwr := rfl
@[simp] theorem report_zeroAtChip : (report o s).zeroAtChip = s.zeroAtChip := rfl
@[simp] theorem report_xportFail : (report o s).xportFail = s.xportFail := rfl
@[simp] theorem report_pending : (report o s).pending = s.pending := rfl
@[simp] theorem report_outputs : (report o s).outputs = some o := rfl
@[simp] theorem report_sent : (report o s).sent = s.sent := rfl

@[simp] theorem emit_image : (emit payload s).image = s.image := rfl
@[simp] theorem emit_pwr : (emit payload s).pwr = s.pwr := rfl
@[simp] theorem emit_zeroAtChip : (emit payload s).zeroAtChip = s.zeroAtChip := rfl
@[simp] theorem emit_xportFail : (emit payload s).xportFail = s.xportFail := rfl
@[simp] theorem emit_pending : (emit payload s).pending = s.pending := rfl
@[simp] theorem emit_outputs : (emit payload s).outputs = s.outputs := rfl
@[simp] theorem emit_sent : (emit payload s).sent = s.sent ++ [⟨deviceAddress, payload, s.xportFail⟩] := rfl

@[simp] theorem raise_image : (raise e m s).image = s.image := rfl
@[simp] theorem raise_pwr : (raise e m s).pwr = s.pwr := rfl
@[simp] theorem raise_zeroAtChip : (raise e m s).zeroAtChip = s.zeroAtChip := rfl
@[simp] theorem raise_xportFail : (raise e m s).xportFail = s.xportFail := rfl
@[simp] theorem raise_pending : (raise e m s).pending = s.pending := rfl
@[simp] theorem raise_outputs :
    (raise e m s).outputs =
      some { status := e, mapper := m, outBytes := none, diagClamped := none } := rfl
@[simp] theorem raise_sent : (raise e m s).sent = s.sent := rfl

@[simp] theorem emitAndReport_image : (emitAndReport payload d s).image = s.image := rfl
@[simp] theorem emitAndReport_pwr : (emitAndReport payload d s).pwr = s.pwr := rfl
@[simp] theorem emitAndReport_zeroAtChip : (emitAndReport payload d s).zeroAtChip = s.zeroAtChip := rfl
@[simp] theorem emitAndReport_xportFail : (emitAndReport payload d s).xportFail = s.xportFail := rfl
@[simp] theorem emitAndReport_pending : (emitAndReport payload d s).pending = s.pending := rfl
@[simp] theorem emitAndReport_outputs :
    (emitAndReport payload d s).outputs =
      some { status := answerStatus s.xportFail, mapper := .notDriven, outBytes := some payload, diagClamped := d } := rfl
@[simp] theorem emitAndReport_sent :
    (emitAndReport payload d s).sent =
      s.sent ++ [⟨deviceAddress, payload, s.xportFail⟩] := rfl

@[simp] theorem finishImage_image : (finishImage img m s).image = img := rfl
@[simp] theorem finishImage_pwr : (finishImage img m s).pwr = s.pwr := rfl
@[simp] theorem finishImage_zeroAtChip : (finishImage img m s).zeroAtChip = s.zeroAtChip := rfl
@[simp] theorem finishImage_xportFail : (finishImage img m s).xportFail = s.xportFail := rfl
@[simp] theorem finishImage_pending : (finishImage img m s).pending = s.pending := rfl
@[simp] theorem finishImage_outputs :
    (finishImage img m s).outputs =
      some { status := .ok, mapper := m, outBytes := none, diagClamped := none } := rfl
@[simp] theorem finishImage_sent : (finishImage img m s).sent = s.sent := rfl

@[simp] theorem present_image : (present r rest s).image = s.image := rfl
@[simp] theorem present_pwr : (present r rest s).pwr = s.pwr := rfl
@[simp] theorem present_zeroAtChip : (present r rest s).zeroAtChip = r.zeroAtChip := rfl
@[simp] theorem present_xportFail : (present r rest s).xportFail = r.xportFail := rfl
@[simp] theorem present_pending : (present r rest s).pending = rest := rfl
@[simp] theorem present_outputs : (present r rest s).outputs = s.outputs := rfl
@[simp] theorem present_sent : (present r rest s).sent = s.sent := rfl

@[simp] theorem idle_image : (idle s).image = s.image := rfl
@[simp] theorem idle_pwr : (idle s).pwr = s.pwr := rfl
@[simp] theorem idle_zeroAtChip : (idle s).zeroAtChip = s.zeroAtChip := rfl
@[simp] theorem idle_xportFail : (idle s).xportFail = s.xportFail := rfl
@[simp] theorem idle_pending : (idle s).pending = s.pending := rfl
@[simp] theorem idle_outputs : (idle s).outputs = none := rfl
@[simp] theorem idle_sent : (idle s).sent = s.sent := rfl

end

end Sys2Proof.Machine
end

