-- ==== Sys2Proof/Laws/Exec.lean ====
section
/-!
SUPPORT. What a command and a step can do, said once: every next state is the report of a buffer command, a raised
error, or one write to the transport.
-/

namespace Sys2Proof.Machine

theorem drawBytes_length (img : Image) : (drawBytes img).length = 7 := rfl

theorem drawBytes_legal (img : Image) : LegalPayload (drawBytes img) := Or.inl ⟨rfl, rfl⟩

theorem brightBytes_legal (level : Int) : LegalPayload (brightBytes level) := by
  obtain ⟨h0, h15⟩ := clampLevel_range level
  refine Or.inr (Or.inr (Or.inr (Or.inl ⟨(clampLevel level).toNat, by omega, ?_⟩)))
  have hcast : BitVec.ofInt 8 (clampLevel level) = BitVec.ofNat 8 (clampLevel level).toNat := by
    rw [← BitVec.ofInt_natCast, Int.toNat_of_nonneg h0]
  simp only [brightBytes, dimByte, pad, hcast]

theorem blinkBytes_legal (idx : Fin 4) : LegalPayload (blinkBytes idx) :=
  Or.inr (Or.inr (Or.inr (Or.inr ⟨idx.val, by omega, rfl⟩)))

/-- A payload whose second byte is zero is no power sequence. -/
theorem padded_not_power (b : Byte) : [b, pad] ≠ [0x21, 0x81] ∧ [b, pad] ≠ [0x80, 0x20] := by
  constructor <;> intro h <;> simp [pad] at h

/-- The next state of a write, by what it tells the device of its power (R70). -/
def WriteEffect (s t : State) (payload : List Byte) (d : Option Bool) (p : Power) : Prop :=
  t = emitAndReport payload d { s with pwr := p } ∧ LegalPayload payload ∧
    ((payload = [0x21, 0x81] ∧ p = powerAfter .on s.xportFail) ∨
     (payload = [0x80, 0x20] ∧ p = powerAfter .off s.xportFail) ∨
     (payload ≠ [0x21, 0x81] ∧ payload ≠ [0x80, 0x20] ∧ p = s.pwr))

/-- Everything a command can do. -/
theorem exec_next_cases {i : Instr} {s t : State} (h : exec i s = .next t) :
    (∃ img m, t = finishImage img m s) ∨ (∃ e m, t = raise e m s) ∨
      (∃ payload d p, WriteEffect s t payload d p) := by
  cases i with
  | clear => exact Or.inl ⟨_, _, (Host.Outcome.next.inj h).symm⟩
  | set n c =>
    simp only [exec, execSet] at h
    split at h
    · exact Or.inr (Or.inl ⟨_, _, (Host.Outcome.next.inj h).symm⟩)
    · exact Or.inl ⟨_, _, (Host.Outcome.next.inj h).symm⟩
  | fill n c =>
    simp only [exec, execFill] at h
    split at h
    · exact Or.inr (Or.inl ⟨_, _, (Host.Outcome.next.inj h).symm⟩)
    · exact Or.inl ⟨_, _, (Host.Outcome.next.inj h).symm⟩
  | draw =>
    refine Or.inr (Or.inr ⟨drawBytes s.image, none, s.pwr, (Host.Outcome.next.inj h).symm,
      drawBytes_legal _, Or.inr (Or.inr ⟨?_, ?_, rfl⟩)⟩)
    · intro hh; simpa [drawBytes] using congrArg List.length hh
    · intro hh; simpa [drawBytes] using congrArg List.length hh
  | pwron =>
    exact Or.inr (Or.inr ⟨pwronBytes, none, _, (Host.Outcome.next.inj h).symm,
      Or.inr (Or.inl rfl), Or.inl ⟨rfl, rfl⟩⟩)
  | pwroff =>
    exact Or.inr (Or.inr ⟨pwroffBytes, none, _, (Host.Outcome.next.inj h).symm,
      Or.inr (Or.inr (Or.inl rfl)), Or.inr (Or.inl ⟨rfl, rfl⟩)⟩)
  | bright level =>
    exact Or.inr (Or.inr ⟨brightBytes level, _, s.pwr, (Host.Outcome.next.inj h).symm,
      brightBytes_legal level, Or.inr (Or.inr ⟨(padded_not_power _).1, (padded_not_power _).2, rfl⟩)⟩)
  | blink rate2 =>
    simp only [exec, execBlink] at h
    split at h
    · exact Or.inr (Or.inl ⟨_, _, (Host.Outcome.next.inj h).symm⟩)
    · exact Or.inr (Or.inr ⟨blinkBytes _, _, s.pwr, (Host.Outcome.next.inj h).symm,
        blinkBytes_legal _, Or.inr (Or.inr ⟨(padded_not_power _).1, (padded_not_power _).2, rfl⟩)⟩)

/-- Everything a step can do: idle with nothing presented, or the head request's command on its levels. -/
theorem step_next_cases {s t : State} (h : step s = .next t) :
    (s.pending = [] ∧ t = idle s) ∨
      (∃ r rest, s.pending = r :: rest ∧ exec (decode r.word) (present r rest s) = .next t) := by
  unfold step at h
  split at h
  · exact Or.inl ⟨‹_›, (Host.Outcome.next.inj h).symm⟩
  · exact Or.inr ⟨_, _, ‹_›, h⟩

theorem powerTold_append (ws : List BusWrite) (w : BusWrite) :
    powerTold (ws ++ [w]) = powerToldBy (powerTold ws) w := by
  simp [powerTold]

theorem lastDrawn_append (ws : List BusWrite) (w : BusWrite) :
    lastDrawn (ws ++ [w]) = drawnBy (lastDrawn ws) w := by
  simp [lastDrawn]

end Sys2Proof.Machine
end

