-- ==== Sys2Proof/Laws/PerInstr.lean ====
section
/-!
SUPPORT. Statements per instruction.  Family RowPattern: the encoder's word has, under the row's mask, the row's
match bits of spec/opcode_table.json, at the row's port.
-/

namespace Sys2Proof.Laws.RowPattern

/-- The word is a Format B word and its bits under 0x180 are `bits`. -/
def OnB (cw : CommandWord) (bits : BitVec 9) : Prop := ∃ w, cw = .bm w ∧ w &&& 0x180#9 = bits

/-- The word is a Format C word and its bits under 0x300 are `bits`. -/
def OnC (cw : CommandWord) (bits : BitVec 10) : Prop := ∃ w, cw = .ce w ∧ w &&& 0x300#10 = bits

/-- The opcode-table row of each command: its port and its match bits. -/
def Statement : Instr → Prop
  | .clear => OnB (encode .clear) 0x000
  | .set n c => OnB (encode (.set n c)) 0x080
  | .fill n c => OnB (encode (.fill n c)) 0x100
  | .draw => OnB (encode .draw) 0x180
  | .pwron => OnC (encode .pwron) 0x000
  | .pwroff => OnC (encode .pwroff) 0x100
  | .bright level => OnC (encode (.bright level)) 0x200
  | .blink rate2 => OnC (encode (.blink rate2)) 0x300

/-- The two top bits of a Format B word are its `op` field, whatever the other fields. -/
theorem formatB_mask (op colour : BitVec 2) (bar : BitVec 5) :
    formatB op colour bar &&& 0x180#9 = formatB op 0 0 := by
  revert op colour bar; decide

/-- The two top bits of a Format C word are its `cop` field, whatever `arg` is. -/
theorem formatC_mask (cop : BitVec 2) (arg : BitVec 8) :
    formatC cop arg &&& 0x300#10 = formatC cop 0 := by
  apply BitVec.eq_of_getLsbD_eq
  intro j hj
  have hmask : ∀ k : Fin 10, (0x300#10).getLsbD k.val = decide (8 ≤ k.val) := by decide
  have hm := hmask ⟨j, hj⟩
  simp only at hm
  simp only [formatC, BitVec.getLsbD_and, BitVec.getLsbD_append, hm]
  by_cases h : j < 8
  · simp [h]
  · simp [h, Nat.le_of_not_lt h]

theorem clear : Statement .clear := ⟨_, rfl, by decide⟩

theorem set (n : Nat) (c : Colour) : Statement (.set n c) := ⟨_, rfl, formatB_mask _ _ _⟩

theorem fill (n : Nat) (c : Colour) : Statement (.fill n c) := ⟨_, rfl, formatB_mask _ _ _⟩

theorem draw : Statement .draw := ⟨_, rfl, by decide⟩

theorem pwron : Statement .pwron := ⟨_, rfl, by decide⟩

theorem pwroff : Statement .pwroff := ⟨_, rfl, by decide⟩

theorem bright (level : Int) : Statement (.bright level) := ⟨_, rfl, formatC_mask _ _⟩

theorem blink (rate2 : Nat) : Statement (.blink rate2) := ⟨_, rfl, formatC_mask _ _⟩

end Sys2Proof.Laws.RowPattern
end

