-- ==== Sys2Proof/Laws/Run.lean ====
section
/-!
SUPPORT. One step of a run of the host's interface (Host/Core.lean), for inductions over runs.
-/

namespace Sys2Proof.Machine

theorem run_zero (s : State) : Sys2Proof.core.run 0 s = .next s := rfl

/-- The same for any machine behind the host's interface. -/
theorem host_run_succ (M : Host.Core) (k : Nat) {s t : M.State} (h : M.step s = .next t) :
    M.run (k + 1) s = M.run k t := by
  rw [Host.Core.run, h]

theorem run_succ_of_next {s t : State} (k : Nat) (h : step s = .next t) :
    Sys2Proof.core.run (k + 1) s = Sys2Proof.core.run k t :=
  host_run_succ Sys2Proof.core k h

end Sys2Proof.Machine
end

