-- ==== Sys2Proof/Tests/Slice0.lean ====
section
/-!
SUPPORT. Tests: expected values are those of spec/95_test_vectors.md (the table and row in each docstring) or of a
rule's own example; the witnesses at the end meet the hypotheses of the obligations.
-/

namespace Sys2Proof.Tests
open Sys2Proof Sys2Proof.Machine

/-- A state with this image, strap and answer, all else as after reset. -/
def st (w0 w1 w2 : Word) (zeroAtChip : Bool := false) (xportFail : Bool := false) : State :=
  { State.reset with image := ⟨w0, w1, w2⟩, zeroAtChip := zeroAtChip, xportFail := xportFail }

/-- The next state of an outcome, if it is one. -/
def nextOf : Host.Outcome State Fault Refusal → Option State
  | .next t => some t
  | .fault _ => none
  | .refused _ => none

/-- The image after a command. -/
def imageAfter (i : Instr) (s : State) : Option Image := (nextOf (exec i s)).map State.image

/-- The status a command ends with. -/
def statusAfter (i : Instr) (s : State) : Option Status := (nextOf (exec i s)).bind statusOf

/-- The bytes a command hands to the transport. -/
def bytesAfter (i : Instr) (s : State) : Option (List Byte) :=
  (nextOf (exec i s)).bind fun t => t.outputs.bind Outputs.outBytes

/-! ### Words, from T11 and R44 -/

/-- T11. -/
theorem test_decode_buffer_words :
    [0b000000000, 0b010100000, 0b011000000, 0b011100111, 0b010111111, 0b100001100, 0b101010111, 0b110000000].map
      (fun w => decode (.bm w)) =
    [.clear, .set 0 .red, .set 0 .yellow, .set 7 .green, .set 31 .red, .fill 12 .off, .fill 23 .yellow, .draw] := by
  decide

/-- T11. -/
theorem test_decode_encoder_words :
    [0b0000000000, 0b0100000000, 0b1000001111, 0b1011111111, 0b1100000001, 0b1100000110].map
      (fun w => decode (.ce w)) =
    [.pwron, .pwroff, .bright 15, .bright (-1), .blink 1, .blink 6] := by
  decide

/-- T11, "Ignored fields". -/
theorem test_decode_ignored_fields :
    decode (.bm 0x01F) = .clear ∧ decode (.bm 0x1FF) = .draw ∧ decode (.ce 0x0FF) = .pwron := by
  decide

/-- R44's words. -/
theorem test_encode_words :
    encode (.set 7 .green) = .bm 0x0E7 ∧ encode (.fill 5 .green) = .bm 0x165 ∧
    encode (.bright (-1)) = .ce 0x2FF ∧ encode (.blink 2) = .ce 0x302 := by
  decide

/-- R44's examples, with the words they stand for. -/
theorem test_assembly :
    assembly (decode (.bm 0x0E7)) = "SET 7, Green" ∧ assembly (decode (.bm 0x165)) = "FILL 5, Green" ∧
    assembly (decode (.ce 0x2FF)) = "BRIGHT -1" ∧ assembly (decode (.ce 0x302)) = "BLINK 2" := by
  decide

/-- A number wider than its port is rejected by name (R35, R36). -/
theorem test_word_too_wide :
    (match decodeAtPort .bm 0x200 with | .error e => some e | .ok _ => none) = some (.wordTooWide .bm) ∧
    (match decodeAtPort .ce 0x400 with | .error e => some e | .ok _ => none) = some (.wordTooWide .ce) ∧
    (match decodeAtPort .ce 0x3FF with | .error _ => none | .ok i => some i) = some (.blink 255) := by
  decide

/-- The well-formedness checks: the largest operands of each field pass, the next ones are refused. -/
theorem test_wf_smoke :
    (Instr.set 31 .red).wf = true ∧ (Instr.set 32 .red).wf = false ∧
    (Instr.fill 31 .off).wf = true ∧ (Instr.fill 32 .off).wf = false ∧
    (Instr.bright 127).wf = true ∧ (Instr.bright 128).wf = false ∧
    (Instr.bright (-128)).wf = true ∧ (Instr.bright (-129)).wf = false ∧
    (Instr.blink 255).wf = true ∧ (Instr.blink 256).wf = false := by
  decide

/-! ### Functions, from T2, T4, T5 -/

/-- T2, row n = 11 with z = 1 and row n = 12 with z = 1. -/
theorem test_map_across_the_middle :
    (orient true 11, mapBar (orient true 11)) = (12, (0, 4)) ∧
    (orient true 12, mapBar (orient true 12)) = (11, (2, 3)) := by
  decide

/-- T4, rows 7, 10, 14 and 15. -/
theorem test_update_vectors :
    update 0xFFFF 7 .red = 0x7FFF ∧ update 0x1234 5 .green = 0x3214 ∧
    update 0xA5A5 4 .yellow = 0xB5B5 ∧ update 0x00FF 4 .green = 0x10EF := by
  decide

/-- T5, rows z = 0, n = 16 and z = 1, n = 20. -/
theorem test_fill_masks :
    [0, 1, 2].map (fillMask false 16) = [0xFF, 0x1F, 0x0F] ∧
    [0, 1, 2].map (fillMask true 20) = [0xF8, 0xFF, 0xFF] := by
  decide

/-! ### Commands, from T6 to T10 -/

/-- R61's example. -/
theorem test_clear : imageAfter .clear (st 0xC0C0 0x1234 0xFFFF) = some ⟨0x0000, 0x0000, 0x0000⟩ := by decide

/-- T6, row 10, and row 4 for the strap. -/
theorem test_set :
    imageAfter (.set 5 .red) (st 0xFFFF 0xFFFF 0xFFFF) = some ⟨0xFFFF, 0xFDFF, 0xFFFF⟩ ∧
    imageAfter (.set 23 .green) (st 0 0 0 true) = some ⟨0x0100, 0x0000, 0x0000⟩ := by
  decide

/-- T6, row 13. -/
theorem test_set_out_of_range :
    imageAfter (.set 24 .red) (st 0x1234 0x5678 0x9ABC) = some ⟨0x1234, 0x5678, 0x9ABC⟩ ∧
    statusAfter (.set 24 .red) (st 0x1234 0x5678 0x9ABC) = some .outOfRange := by
  decide

/-- T6, rows 21, 22 and 26 (inclusive, C1). -/
theorem test_fill :
    imageAfter (.fill 3 .red) (st 0xFF00 0xFF00 0xFF00) = some ⟨0xF00F, 0xFF00, 0xFF00⟩ ∧
    imageAfter (.fill 3 .red) (st 0xFF00 0xFF00 0xFF00 true) = some ⟨0xFF00, 0xFF00, 0x0FF0⟩ ∧
    imageAfter (.fill 5 .green) (st 0 0 0) = some ⟨0x0F00, 0x0300, 0x0000⟩ := by
  decide

/-- T6, row 15. -/
theorem test_fill_out_of_range :
    imageAfter (.fill 24 .off) (st 0x1234 0x5678 0x9ABC) = some ⟨0x1234, 0x5678, 0x9ABC⟩ ∧
    statusAfter (.fill 24 .off) (st 0x1234 0x5678 0x9ABC) = some .outOfRange := by
  decide

/-- T7, row 3, and its closing remark on a failing transport. -/
theorem test_draw :
    bytesAfter .draw (st 0x1234 0x5678 0x9ABC) = some [0x00, 0x34, 0x12, 0x78, 0x56, 0xBC, 0x9A] ∧
    statusAfter .draw (st 0x1234 0x5678 0x9ABC false true) = some .transportError ∧
    imageAfter .draw (st 0x1234 0x5678 0x9ABC false true) = some ⟨0x1234, 0x5678, 0x9ABC⟩ := by
  decide

/-- T10, rows 1 and 6. -/
theorem test_pwron :
    bytesAfter .pwron (st 0 0 0) = some [0x21, 0x81] ∧
    (nextOf (exec .pwron (st 0 0 0))).map State.pwr = some .on ∧
    (nextOf (exec .pwron { st 0 0 0 false true with pwr := .on })).map State.pwr = some .unknown := by
  decide

/-- T10, rows 4 and 7. -/
theorem test_pwroff :
    bytesAfter .pwroff (st 0 0 0) = some [0x80, 0x20] ∧
    (nextOf (exec .pwroff (st 0 0 0))).map State.pwr = some .off ∧
    (nextOf (exec .pwroff { st 0 0 0 false true with pwr := .on })).map State.pwr = some .unknown := by
  decide

/-- T8, rows -128, 8, 16 and 127. -/
theorem test_bright :
    [-128, 8, 16, 127].map (fun l => bytesAfter (.bright l) (st 0 0 0)) =
      [some [0xE0, 0x00], some [0xE8, 0x00], some [0xEF, 0x00], some [0xEF, 0x00]] ∧
    [-128, 8, 16, 127].map
      (fun l => (nextOf (exec (.bright l) (st 0 0 0))).bind fun t => t.outputs.bind Outputs.diagClamped) =
      [some true, some false, some true, some true] := by
  decide

/-- T9, rows 0, 1, 2, 3 and 4 (C3: 1 Hz is 0x85). -/
theorem test_blink :
    [0, 1, 2, 3, 4].map (fun r => bytesAfter (.blink r) (st 0 0 0)) =
      [some [0x81, 0x00], some [0x87, 0x00], some [0x85, 0x00], none, some [0x83, 0x00]] ∧
    statusAfter (.blink 3) (st 0 0 0) = some .invalidRate := by
  decide

/-- P2, steps 1 and 2, as R46's INIT. -/
theorem test_init :
    (nextOf (runInit 15 true false false State.reset)).map (fun t => (t.pwr, t.zeroAtChip, t.sent)) =
      some (.on, true, [⟨0xE0, [0x21, 0x81], false⟩, ⟨0xE0, [0xEF, 0x00], false⟩]) := by
  decide

/-- P3, step 1, as a step from reset on a word presented. -/
theorem test_step_runs_the_word :
    (nextOf (step (State.reset.withFetchWord 9 0x0D7))).map State.image = some ⟨0x0000, 0x0000, 0x8080⟩ := by
  decide

/-- A step with nothing presented (R34). -/
theorem test_step_idle : nextOf (step State.reset) = some State.reset := by decide

/-- The port a bare table number is read at (assumption 2). -/
theorem test_decode_table_word :
    decodeTableWord 16 0x0E7 = some (.set 7 .green) ∧ decodeTableWord 16 0x214 = some (.bright 20) ∧
    decodeTableWord 10 0x100 = some .pwroff ∧ decodeTableWord 9 0x200 = none := by
  decide

/-! ### Witnesses: states and operands that meet the hypotheses of each obligation together, at boundary values -/

/-- A command presented with the strap and the answer of `st`. -/
def presented (cw : CommandWord) (zeroAtChip xportFail : Bool) : State :=
  { State.reset with pending := [⟨cw, zeroAtChip, xportFail⟩] }

theorem witness_DecodeOfEncodeIsTheCommand :
    (Instr.fill 31 .green).wf = true ∧ (Instr.bright (-128)).wf = true ∧ (Instr.blink 255).wf = true := by
  decide

theorem witness_IgnoredFieldsChangeNothing :
    (∃ t, exec (decode (.bm 0x0B8)) (st 0 0 0) = .next t ∧ statusOf t = some .outOfRange) ∧
    (∃ t, exec (decode (.bm 0x17F)) (st 0 0 0) = .next t ∧ statusOf t = some .outOfRange) ∧
    (∃ t, exec (decode (.ce 0x303)) (st 0 0 0) = .next t ∧ statusOf t = some .invalidRate) ∧
    (∃ t, exec (decode (.ce 0x27F)) (st 0 0 0) = .next t ∧ decode (.ce 0x27F) = .bright 127 ∧
      (st 0 0 0).xportFail = false) :=
  ⟨⟨_, rfl, by decide⟩, ⟨_, rfl, by decide⟩, ⟨_, rfl, by decide⟩, ⟨_, rfl, by decide, rfl⟩⟩

theorem witness_MapTableIsABijection :
    (23, 2, 7, 7, 15, 0x0080, 0x8000) ∈ mapTableLow ++ mapTableHigh ∧ (23 : Bar).val = 23 := by
  decide

theorem witness_MapEquivalentFormsAgree : (24 ≤ 24 ∧ 24 ≤ 31) ∧ (24 ≤ 31 ∧ 31 ≤ 31) := by decide

theorem witness_MasksAreOneHotAndDisjoint : (0 : Bar) ≠ 12 ∧ mapGroup 0 = mapGroup 12 := by decide

theorem witness_UpdateWritesExactlyTheBarsBits :
    ((15 : Nat) ≠ (0 : BitOffset).val ∧ (15 : Nat) ≠ (0 : BitOffset).val + 8) ∧
    ((0x8080 : Word).getLsbD (7 : BitOffset).val = redVal .yellow ∧
      (0x8080 : Word).getLsbD ((7 : BitOffset).val + 8) = grnVal .yellow) ∧
    (0 : BitOffset) ≠ 7 := by
  decide

theorem witness_SetpWritesOnePhysicalBar :
    (∃ g : Group, g ≠ mapGroup 23) ∧ (0 : Bar) ≠ 12 := ⟨⟨0, by decide⟩, by decide⟩

theorem witness_ImageIsDeterminedByItsBars :
    ∀ p : Bar, readColour (st 0x00FF 0x00FF 0x00FF).image p = readColour ⟨0x00FF, 0x00FF, 0x00FF⟩ p := by
  decide

theorem witness_LaneMasksEqualSettingEachBar : (0x7F : Byte).getLsbD (7 : BitOffset).val = false := by decide

theorem witness_FillLoopEqualsLaneMaskForm : (0 : Group).val + (2 : Group).val = 2 := by decide

theorem witness_SetWritesOneOrientedBar :
    23 < 24 ∧
    (∃ t, exec (.set (23 : Bar).val .red) (st 0 0 0x0080) = .next t ∧
      readColour (st 0 0 0x0080).image (orient (st 0 0 0x0080).zeroAtChip 23) = .red) ∧
    (∃ t, (st 0 0 0 true).image = ⟨0x0000, 0x0000, 0x0000⟩ ∧ exec (.set 13 .yellow) (st 0 0 0 true) = .next t) :=
  ⟨by decide, ⟨_, rfl, by decide⟩, ⟨_, rfl, rfl⟩⟩

theorem witness_SetPerturbsNoOtherBit :
    ∃ t, exec (.set (0 : Bar).val .off) (st 0xFFFF 0 0) = .next t ∧
      ¬ ((0 : Group) = mapGroup (orient (st 0xFFFF 0 0).zeroAtChip 0) ∧
        ((15 : Nat) = (mapBit (orient (st 0xFFFF 0 0).zeroAtChip 0)).val ∨
          (15 : Nat) = (mapBit (orient (st 0xFFFF 0 0).zeroAtChip 0)).val + 8)) :=
  ⟨_, rfl, by decide⟩

theorem witness_FillColoursExactlyItsRange : 23 < 24 ∧ 23 < 31 := by decide

theorem witness_FillEqualsItsSetsInAnyOrder :
    (∃ t, exec (.fill (2 : Bar).val .red) (st 0 0 0 true) = .next t) ∧
    (∀ k : Bar, k ∈ [2, 0, 1] ↔ k.val ≤ (2 : Bar).val) ∧
    (∃ t, exec (.fill 23 .green) (st 0 0 0) = .next t) :=
  ⟨⟨_, rfl⟩, by decide, ⟨_, rfl⟩⟩

theorem witness_DrawSendsTheImageLittleEndian :
    (∃ t, (st 0x0000 0xC000 0xF000).image = ⟨0x0000, 0xC000, 0xF000⟩ ∧
      exec .draw (st 0x0000 0xC000 0xF000) = .next t) ∧
    (∃ t u, exec .clear (st 0x1234 0 0) = .next t ∧ exec .draw t = .next u) :=
  ⟨⟨_, rfl, rfl⟩, ⟨_, _, rfl, rfl⟩⟩

theorem witness_BufferCommandsAreIdempotent :
    (WritesImage (.fill 23 .red) ∧ ∃ t, exec (.fill 23 .red) (st 0 0 0) = .next t) ∧
    (∃ t, exec .draw (st 0 0 0) = .next t) :=
  ⟨⟨Or.inr (Or.inr ⟨_, _, rfl⟩), ⟨_, rfl⟩⟩, ⟨_, rfl⟩⟩

theorem witness_PowerStateMachine :
    (∃ t, exec .pwron (st 0 0 0 false true) = .next t) ∧ (∃ t, exec .pwroff (st 0 0 0) = .next t) ∧
    (Instr.blink 0 ≠ .pwron ∧ Instr.blink 0 ≠ .pwroff ∧ ∃ t, exec (.blink 0) (st 0 0 0) = .next t) ∧
    (∃ t, runInit (-1) true true false (st 0 0 0) = .next t) ∧
    (∃ t, runInit 16 false false true (st 0 0 0) = .next t) :=
  ⟨⟨_, rfl⟩, ⟨_, rfl⟩, ⟨by decide, by decide, ⟨_, rfl⟩⟩, ⟨_, rfl⟩, ⟨_, rfl⟩⟩

theorem witness_BlinkSendsTheTableByte :
    ¬ SupportedRate 3 ∧ ¬ SupportedRate 5 ∧ ¬ SupportedRate 255 := by
  refine ⟨?_, ?_, ?_⟩ <;> simp [SupportedRate]

theorem witness_InitPowersOnThenSetsBrightness :
    (∃ t, runInit 127 true true false (st 0 0 0) = .next t ∧ statusOf t = some .transportError) ∧
    (∃ t, runInit (-128) true false true (st 0 0 0) = .next t ∧ t.pwr = .on) :=
  ⟨⟨_, rfl, by decide⟩, ⟨_, rfl, by decide⟩⟩

theorem witness_OutOfRangeExactlyOnIllegalBars :
    ∃ t, exec (.set 24 .red) (st 0 0 0) = .next t ∧ statusOf t = some .outOfRange := ⟨_, rfl, by decide⟩

theorem witness_InvalidRateOnlyFromBlink :
    ∃ t, exec (.blink 5) (st 0 0 0) = .next t ∧ statusOf t = some .invalidRate := ⟨_, rfl, by decide⟩

theorem witness_TransportErrorOnlyFromFailedWrites :
    ∃ t, exec (.bright 16) (st 0 0 0 false true) = .next t ∧ statusOf t = some .transportError :=
  ⟨_, rfl, by decide⟩

theorem witness_DiagnosticOnlyFromBright :
    (∃ t, exec .pwron (st 0 0 0) = .next t ∧ ∀ level, Instr.pwron ≠ .bright level) ∧
    (∃ t, exec (.bright 15) (st 0 0 0) = .next t) ∧
    (∃ t u, exec (.bright 16) (st 0 0 0) = .next t ∧ exec (.bright (clampLevel 16)) (st 0 0 0) = .next u) :=
  ⟨⟨_, rfl, by simp⟩, ⟨_, rfl⟩, ⟨_, _, rfl, rfl⟩⟩

theorem witness_EachCommandYieldsItsPorts :
    ∃ t, exec .draw (st 0 0 0 false true) = .next t ∧ (t.outputs.bind Outputs.outBytes).isSome = true :=
  ⟨_, rfl, by decide⟩

theorem witness_MapperOutputsDescribeTheOperandsBar :
    (IsBarCommand (.fill (23 : Bar).val .green) (23 : Bar).val .green ∧
      ∃ t, exec (.fill (23 : Bar).val .green) (st 0 0 0 true) = .next t) ∧
    (IsBarCommand (.set 24 .red) 24 .red ∧ 23 < 24 ∧ ∃ t, exec (.set 24 .red) (st 0 0 0) = .next t) ∧
    ((∀ n c, ¬ IsBarCommand .clear n c) ∧ ∃ t, exec .clear (st 0 0 0) = .next t) :=
  ⟨⟨Or.inr rfl, ⟨_, rfl⟩⟩, ⟨Or.inl rfl, by decide, ⟨_, rfl⟩⟩, ⟨by simp [IsBarCommand], ⟨_, rfl⟩⟩⟩

theorem witness_OperandErrorsChangeOnlyTheStatus :
    (∃ t, exec (.fill 31 .off) (st 1 2 3) = .next t ∧
      (statusOf t = some .outOfRange ∨ statusOf t = some .invalidRate)) ∧
    (∃ t, exec (.blink 6) (st 1 2 3) = .next t ∧
      (statusOf t = some .outOfRange ∨ statusOf t = some .invalidRate)) :=
  ⟨⟨_, rfl, by decide⟩, ⟨_, rfl, by decide⟩⟩

theorem witness_StepRunsTheDecodedCommand :
    (presented (.ce 0x3FF) true true).pending = ⟨.ce 0x3FF, true, true⟩ :: [] := rfl

theorem witness_NothingPresentedNothingHappens : State.reset.pending = [] := rfl

theorem witness_CommandsWriteOnlyTheirState :
    (¬ WritesImage .draw ∧ Instr.draw ≠ .pwron ∧ Instr.draw ≠ .pwroff ∧ ∃ t, exec .draw (st 0 0 0) = .next t) ∧
    (WritesImage .clear ∧ ∃ t, exec .clear (st 0 0 0) = .next t) :=
  ⟨⟨by simp [WritesImage], by decide, by decide, ⟨_, rfl⟩⟩, ⟨Or.inl rfl, ⟨_, rfl⟩⟩⟩

theorem witness_StrapIsReadOnlyBySetAndFill :
    (∀ n c, ¬ IsBarCommand (.bright 0) n c) ∧ ∃ t, exec (.bright 0) (st 0 0 0) = .next t :=
  ⟨by simp [IsBarCommand], ⟨_, rfl⟩⟩

theorem witness_ResultsPowerAndHistoryAreNeverRead : ∃ t, exec .pwroff (st 0 0 0) = .next t := ⟨_, rfl⟩

theorem witness_LastSuccessfulPayloadChangesOnlyAtDraw :
    (Instr.pwron ≠ .draw ∧ ∃ t, exec .pwron (st 0 0 0) = .next t) ∧
    (∃ t, exec .draw (st 0 0 0 false true) = .next t) :=
  ⟨⟨by decide, ⟨_, rfl⟩⟩, ⟨_, rfl⟩⟩

theorem witness_OnlyFailedPowerCommandsForgetThePower :
    (∃ t, exec .clear (st 0 0 0) = .next t) ∧
    (∃ t, exec .pwroff { st 0 0 0 false true with pwr := .on } = .next t ∧
      { st 0 0 0 false true with pwr := .on }.pwr ≠ .unknown ∧ t.pwr = .unknown) :=
  ⟨⟨_, rfl⟩, ⟨_, rfl, by decide, by decide⟩⟩

theorem witness_StepKeepsWritesLegal :
    WritesLegal (presented (.bm 0x180) false false) ∧
      ∃ t, step (presented (.bm 0x180) false false) = .next t ∧ t.sent ≠ [] :=
  ⟨fun _ h => (List.not_mem_nil h).elim, ⟨_, rfl, by decide⟩⟩

theorem witness_StepKeepsPowerTrackingWrites :
    PowerTracksWrites (presented (.ce 0x000) false false) ∧
      ∃ t, step (presented (.ce 0x000) false false) = .next t ∧ t.pwr = .on :=
  ⟨rfl, ⟨_, rfl, by decide⟩⟩

end Sys2Proof.Tests
end

/-! ## Words whose command ignores some of their fields (30_encoding.md R43) -/

namespace Sys2Proof

theorem decode_formatB_clear (colour : BitVec 2) (bar : BitVec 5) :
    decode (.bm (formatB 0b00 colour bar)) = .clear := by
  obtain ⟨hop, -, -⟩ := fields_formatB 0b00 colour bar
  rw [decode, decodeB, hop]
  rfl

theorem decode_formatB_draw (colour : BitVec 2) (bar : BitVec 5) :
    decode (.bm (formatB 0b11 colour bar)) = .draw := by
  obtain ⟨hop, -, -⟩ := fields_formatB 0b11 colour bar
  rw [decode, decodeB, hop]
  rfl

theorem decode_formatC_pwron (arg : BitVec 8) : decode (.ce (formatC 0b00 arg)) = .pwron := by
  obtain ⟨hcop, -⟩ := fields_formatC 0b00 arg
  rw [decode, decodeC, hcop]
  rfl

theorem decode_formatC_pwroff (arg : BitVec 8) : decode (.ce (formatC 0b01 arg)) = .pwroff := by
  obtain ⟨hcop, -⟩ := fields_formatC 0b01 arg
  rw [decode, decodeC, hcop]
  rfl

/-- A bar that comes from a word fits the five bits of its field (R35, R38). -/
theorem bar_le_of_decode {cw : CommandWord} {n : Nat} {c : Colour}
    (h : Machine.IsBarCommand (decode cw) n c) : n ≤ 31 := by
  cases cw with
  | bm w =>
    have hbar := (fieldBar w).isLt
    simp only [Machine.IsBarCommand, decode, decodeB] at h
    split at h <;> simp at h <;> omega
  | ce w =>
    simp only [Machine.IsBarCommand, decode, decodeC] at h
    split at h <;> simp at h

end Sys2Proof

/-! ## What a command leaves on its result ports (30_encoding.md R37) -/

namespace Sys2Proof.Machine

theorem IsBarCommand.writesImage {i : Instr} {n : Nat} {c : Colour} (h : IsBarCommand i n c) :
    WritesImage i := by
  rcases h with rfl | rfl
  · exact .inr (.inl ⟨n, c, rfl⟩)
  · exact .inr (.inr ⟨n, c, rfl⟩)

theorem IsBarCommand.operands_unique {i : Instr} {n m : Nat} {c d : Colour}
    (h : IsBarCommand i n c) (h' : IsBarCommand i m d) : n = m ∧ c = d := by
  rcases h with rfl | rfl <;> simpa [IsBarCommand] using h'

theorem ge_of_validBar_eq_none {n : Nat} (h : validBar n = none) : 24 ≤ n := by
  by_contra hn
  simp [validBar_of_lt (Nat.lt_of_not_le hn)] at h

theorem blinkIndex_eq_none_iff_not_supportedRate {rate2 : Nat} :
    blinkIndex rate2 = none ↔ ¬ SupportedRate rate2 := by
  simp only [blinkIndex_eq_none, SupportedRate, not_or]

/-- The commands that hand a payload to the transport: DRAW and the commands of unit CE, BLINK for the rates of its
table (R37). -/
def Emits (i : Instr) : Prop :=
  i = .draw ∨ i = .pwron ∨ i = .pwroff ∨ (∃ level, i = .bright level) ∨
    ∃ rate2, i = .blink rate2 ∧ SupportedRate rate2

theorem Emits.not_writesImage {i : Instr} (h : Emits i) : ¬ WritesImage i := by
  rcases h with rfl | rfl | rfl | ⟨level, rfl⟩ | ⟨rate2, rfl, -⟩ <;> simp [WritesImage]

theorem Emits.not_isBarCommand {i : Instr} (h : Emits i) (n : Nat) (c : Colour) : ¬ IsBarCommand i n c :=
  fun hbar => h.not_writesImage hbar.writesImage

theorem Emits.supportedRate {rate2 : Nat} (h : Emits (.blink rate2)) : SupportedRate rate2 := by
  simpa [Emits] using h

/-- The result ports a command may end with, by the way it ends. -/
inductive Yields (xportFail : Bool) : Instr → Outputs → Prop
  /-- CLEAR: status OK, the mapper not driven. -/
  | clear : Yields xportFail .clear (okPorts .notDriven)
  /-- SET or FILL of a legal bar: status OK and the mapper's values. -/
  | legalBar {i : Instr} {n : Nat} {c : Colour} (v : MapperValues) (hi : IsBarCommand i n c) (hn : n < 24) :
      Yields xportFail i (okPorts (.valid v))
  /-- SET or FILL of an illegal bar. -/
  | illegalBar {i : Instr} {n : Nat} {c : Colour} (hi : IsBarCommand i n c) (hn : 24 ≤ n) :
      Yields xportFail i (errorPorts .outOfRange .invalid)
  /-- BLINK of a rate its table does not have. -/
  | unsupportedRate {rate2 : Nat} (hr : ¬ SupportedRate rate2) :
      Yields xportFail (.blink rate2) (errorPorts .invalidRate .notDriven)
  /-- A command that emits: its payload and the status of the transport's answer, the diagnostic for BRIGHT. -/
  | sent {i : Instr} {payload : List Byte} {diag : Option Bool} (hi : Emits i)
      (hlen : payload.length = if i = .draw then 7 else 2)
      (hdiag : diag.isSome = true ↔ ∃ level, i = .bright level) :
      Yields xportFail i (sentPorts xportFail payload diag)

/-- Every command shows results, and they are of the kind its operands select. -/
theorem exec_yields {i : Instr} {s t : State} (h : exec i s = .next t) :
    ∃ o, t.outputs = some o ∧ Yields s.xportFail i o := by
  cases i with
  | clear =>
    obtain rfl := Host.Outcome.next.inj h
    exact ⟨_, rfl, .clear⟩
  | set n c =>
    simp only [exec, execSet] at h
    split at h <;> obtain rfl := Host.Outcome.next.inj h
    next hv => exact ⟨_, rfl, .illegalBar (.inl rfl) (ge_of_validBar_eq_none hv)⟩
    next b hv => exact ⟨_, rfl, .legalBar _ (.inl rfl) (validBar_eq_some hv ▸ b.isLt)⟩
  | fill n c =>
    simp only [exec, execFill] at h
    split at h <;> obtain rfl := Host.Outcome.next.inj h
    next hv => exact ⟨_, rfl, .illegalBar (.inr rfl) (ge_of_validBar_eq_none hv)⟩
    next b hv => exact ⟨_, rfl, .legalBar _ (.inr rfl) (validBar_eq_some hv ▸ b.isLt)⟩
  | draw | pwron | pwroff | bright =>
    obtain rfl := Host.Outcome.next.inj h
    exact ⟨_, rfl, .sent (by simp [Emits]) rfl (by simp)⟩
  | blink rate2 =>
    simp only [exec, execBlink] at h
    split at h <;> obtain rfl := Host.Outcome.next.inj h
    next hv => exact ⟨_, rfl, .unsupportedRate (blinkIndex_eq_none_iff_not_supportedRate.mp hv)⟩
    next idx hv =>
      have hr : SupportedRate rate2 := by
        by_contra hr
        simp [blinkIndex_eq_none_iff_not_supportedRate.mpr hr] at hv
      exact ⟨_, rfl, .sent (by simpa [Emits] using hr) rfl (by simp)⟩

section
variable {f : Bool} {i : Instr} {o : Outputs}

theorem Yields.mapper_driven_iff (h : Yields f i o) : o.mapper ≠ .notDriven ↔ ∃ n c, IsBarCommand i n c := by
  cases h with
  | clear => simp [okPorts, IsBarCommand]
  | legalBar v hi => exact iff_of_true (by simp [okPorts]) ⟨_, _, hi⟩
  | illegalBar hi => exact iff_of_true (by simp [errorPorts]) ⟨_, _, hi⟩
  | unsupportedRate => simp [errorPorts, IsBarCommand]
  | sent hi => simp [sentPorts, hi.not_isBarCommand]

theorem sentPorts_status_not_operandError (payload : List Byte) (diag : Option Bool) :
    (sentPorts f payload diag).status ≠ .outOfRange ∧ (sentPorts f payload diag).status ≠ .invalidRate := by
  cases f <;> simp [sentPorts]

theorem Yields.outBytes_isSome_iff (h : Yields f i o) :
    o.outBytes.isSome = true ↔ ¬ WritesImage i ∧ o.status ≠ .outOfRange ∧ o.status ≠ .invalidRate := by
  cases h with
  | clear => simp [okPorts, WritesImage]
  | legalBar v hi => simp [okPorts, hi.writesImage]
  | illegalBar => simp [errorPorts]
  | unsupportedRate => simp [errorPorts]
  | sent hi => exact iff_of_true rfl ⟨hi.not_writesImage, sentPorts_status_not_operandError _ _⟩

/-- What stands on the ports beside a byte sequence: its length and the status of the answer. -/
theorem Yields.of_outBytes_isSome (h : Yields f i o) (hb : o.outBytes.isSome = true) :
    outLen o = some (if i = .draw then 7 else 2) ∧ o.status = if f then .transportError else .ok := by
  cases h with
  | sent _ hlen => exact ⟨congrArg some hlen, rfl⟩
  | clear | legalBar | illegalBar | unsupportedRate => cases hb

theorem Yields.diagClamped_isSome_iff (h : Yields f i o) :
    o.diagClamped.isSome = true ↔ ∃ level, i = .bright level := by
  cases h with
  | clear => simp [okPorts]
  | legalBar v hi => rcases hi with rfl | rfl <;> simp [okPorts]
  | illegalBar hi => rcases hi with rfl | rfl <;> simp [errorPorts]
  | unsupportedRate => simp [errorPorts]
  | sent _ _ hdiag => exact hdiag

theorem Yields.outOfRange_iff (h : Yields f i o) :
    o.status = .outOfRange ↔ ∃ n c, IsBarCommand i n c ∧ 24 ≤ n := by
  cases h with
  | clear => simp [okPorts, IsBarCommand]
  | legalBar v hi hn =>
    refine iff_of_false (by simp [okPorts]) fun ⟨m, d, hm, hge⟩ => ?_
    obtain ⟨rfl, -⟩ := hi.operands_unique hm
    omega
  | illegalBar hi hn => exact iff_of_true rfl ⟨_, _, hi, hn⟩
  | unsupportedRate => simp [errorPorts, IsBarCommand]
  | sent hi => simp [sentPorts_status_not_operandError, hi.not_isBarCommand]

theorem Yields.invalidRate_iff (h : Yields f i o) :
    o.status = .invalidRate ↔ ∃ r, i = .blink r ∧ ¬ SupportedRate r := by
  cases h with
  | clear => simp [okPorts]
  | legalBar v hi => rcases hi with rfl | rfl <;> simp [okPorts]
  | illegalBar hi => rcases hi with rfl | rfl <;> simp [errorPorts]
  | unsupportedRate hr => exact iff_of_true rfl ⟨_, rfl, hr⟩
  | sent hi =>
    refine iff_of_false (sentPorts_status_not_operandError _ _).2 fun ⟨r, hr, hn⟩ => ?_
    subst hr
    exact hn hi.supportedRate

end

/-- Every command that ends with OutOfRange is SET or FILL of an illegal bar, and each of these does (R79). -/
theorem statusOf_eq_outOfRange_iff {i : Instr} {s t : State} (h : exec i s = .next t) :
    statusOf t = some .outOfRange ↔ ∃ n c, IsBarCommand i n c ∧ 24 ≤ n := by
  obtain ⟨o, ho, hy⟩ := exec_yields h
  simpa [statusOf, ho] using hy.outOfRange_iff

/-- Every command that ends with InvalidRate is BLINK of an unsupported rate, and each of these does (R80). -/
theorem statusOf_eq_invalidRate_iff {i : Instr} {s t : State} (h : exec i s = .next t) :
    statusOf t = some .invalidRate ↔ ∃ r, i = .blink r ∧ ¬ SupportedRate r := by
  obtain ⟨o, ho, hy⟩ := exec_yields h
  simpa [statusOf, ho] using hy.invalidRate_iff

theorem exec_bright (level : Int) (s : State) :
    exec (.bright level) s = .next (emitAndReport (brightBytes level) (some (diagOfLevel level)) s) := rfl

theorem statusOf_emitAndReport (payload : List Byte) (diag : Option Bool) (s : State) :
    statusOf (emitAndReport payload diag s) = some (answerStatus s.xportFail) := rfl

/-! ## INIT's expansion (30_encoding.md R46) -/

/-- The state PWRON leaves within INIT: the strap held at the orientation, `PWR` and the record by PWRON's answer. -/
def initPowered (zeroAtChip failOn : Bool) (s : State) : State :=
  afterWrite { s with zeroAtChip := zeroAtChip, xportFail := failOn, pwr := powerAfter .on failOn } [0x21, 0x81] none

theorem runInit_pwron_failed (level : Int) (z failBright : Bool) (s : State) :
    runInit level z true failBright s = .next (initPowered z true s) := rfl

theorem runInit_pwron_ok (level : Int) (z failBright : Bool) (s : State) :
    runInit level z false failBright s =
      exec (.bright level) { initPowered z false s with xportFail := failBright } := rfl

/-! ## The obligations of the encoding family -/

/-- Settles O4: ignored fields never reach the decoded command, and the operand errors are those of `exec`, where a
decoded bar is at most 31. -/
theorem ignoredFieldsChangeNothing : Obligations.IgnoredFieldsChangeNothing := by
  refine ⟨fun colour bar s => ⟨?_, ?_⟩, fun arg s => ⟨?_, ?_⟩, by decide,
    fun cw s t h => ⟨?_, statusOf_eq_invalidRate_iff h, fun level hcw hs => ?_⟩⟩
  · exact congrArg (exec · s) (decode_formatB_clear colour bar)
  · exact congrArg (exec · s) (decode_formatB_draw colour bar)
  · exact congrArg (exec · s) (decode_formatC_pwron arg)
  · exact congrArg (exec · s) (decode_formatC_pwroff arg)
  · rw [statusOf_eq_outOfRange_iff h]
    constructor
    · rintro ⟨n, c, hbar, hn⟩
      exact ⟨n, c, hbar, hn, bar_le_of_decode hbar⟩
    · rintro ⟨n, c, hbar, hn, -⟩
      exact ⟨n, c, hbar, hn⟩
  · rw [hcw, exec_bright] at h
    obtain rfl := Host.Outcome.next.inj h
    rw [statusOf_emitAndReport, hs]
    rfl

/-- Settles O32, by PWRON's answer: INIT ends with PWRON or is BRIGHT at the state PWRON left. -/
theorem initPowersOnThenSetsBrightness : Obligations.InitPowersOnThenSetsBrightness := by
  intro level z f1 f2 s
  cases f1 with
  | true =>
    refine ⟨_, runInit_pwron_failed level z f2 s, rfl, rfl, fun _ => ⟨rfl, rfl⟩, fun hf => ?_⟩
    cases hf
  | false =>
    refine ⟨_, (runInit_pwron_ok level z f2 s).trans (exec_bright level _), rfl, rfl, fun hf => ?_, fun _ => rfl⟩
    cases hf

/-- Settles O37, from the kinds of result ports a command may end with. -/
theorem eachCommandYieldsItsPorts : Obligations.EachCommandYieldsItsPorts := by
  intro i s t h
  obtain ⟨o, ho, hy⟩ := exec_yields h
  exact ⟨o, ho, hy.mapper_driven_iff, hy.outBytes_isSome_iff, fun hb => (hy.of_outBytes_isSome hb).1,
    fun hb => (hy.of_outBytes_isSome hb).2, hy.diagClamped_isSome_iff⟩

end Sys2Proof.Machine

/-! ## Places of bars in the image (40_mapper.md R49 to R53) -/

namespace Sys2Proof.Machine

theorem orient_bijective (z : Bool) : Function.Bijective (orient z) :=
  Function.Involutive.bijective (orient_orient z)

theorem orient_val (z : Bool) (n : Bar) : (orient z n).val = if z then 23 - n.val else n.val := by
  cases z <;> rfl

theorem mapGroup_val (p : Bar) : (mapGroup p).val = if p.val < 12 then p.val / 4 else (p.val - 12) / 4 := rfl

theorem mapBit_val (p : Bar) : (mapBit p).val = p.val % 4 + (if p.val ≥ 12 then 4 else 0) := rfl

theorem place_of_lt {p : Bar} (hp : p.val < 12) :
    (mapGroup p).val = p.val / 4 ∧ (mapBit p).val = p.val % 4 := by
  rw [mapGroup_val, mapBit_val, if_pos hp, if_neg (Nat.not_le.mpr hp)]
  exact ⟨rfl, rfl⟩

theorem place_of_ge {p : Bar} (hp : 12 ≤ p.val) :
    (mapGroup p).val = (p.val - 12) / 4 ∧ (mapBit p).val = p.val % 4 + 4 := by
  rw [mapGroup_val, mapBit_val, if_neg (Nat.not_lt.mpr hp), if_pos hp]
  exact ⟨rfl, rfl⟩

/-- The bars of a word's low nibble (R50). -/
theorem lowNibble_iff (p : Bar) (g : Group) :
    mapGroup p = g ∧ (mapBit p).val < 4 ↔ 4 * g.val ≤ p.val ∧ p.val ≤ 4 * g.val + 3 := by
  rw [Fin.ext_iff]
  rcases Nat.lt_or_ge p.val 12 with hp | hp
  · have := place_of_lt hp
    omega
  · have := place_of_ge hp
    omega

/-- The bars of a word's high nibble (R50). -/
theorem highNibble_iff (p : Bar) (g : Group) :
    mapGroup p = g ∧ 4 ≤ (mapBit p).val ↔ 12 + 4 * g.val ≤ p.val ∧ p.val ≤ 12 + 4 * g.val + 3 := by
  rw [Fin.ext_iff]
  rcases Nat.lt_or_ge p.val 12 with hp | hp
  · have := place_of_lt hp
    omega
  · have := place_of_ge hp
    omega

/-- MAPINV is MAP's inverse on both sides (R52), so MAP is a bijection onto the (word, bit) positions (R51). -/
theorem mapBar_bijective : Function.Bijective mapBar :=
  Function.bijective_iff_has_inverse.mpr
    ⟨fun place => mapInv place.1 place.2, mapInv_map,
      fun place => Prod.ext (mapGroup_mapInv place.1 place.2) (mapBit_mapInv place.1 place.2)⟩

theorem mapInv_eq_iff {g : Group} {b : BitOffset} {p : Bar} :
    mapInv g b = p ↔ g = mapGroup p ∧ b = mapBit p := by
  constructor
  · rintro rfl
    exact ⟨(mapGroup_mapInv g b).symm, (mapBit_mapInv g b).symm⟩
  · rintro ⟨rfl, rfl⟩
    exact mapInv_map p

theorem mapBit_ne_of_same_word {p q : Bar} (hne : p ≠ q) (hg : mapGroup p = mapGroup q) : mapBit p ≠ mapBit q :=
  fun hb => hne (bar_eq_of_place_eq hg hb)

/-- The top bit of a bit offset says which nibble it is in (R52's `bitOffset[2]`). -/
theorem offset_topBit (b : BitOffset) : (BitVec.ofNat 3 b.val).getLsbD 2 = decide (4 ≤ b.val) := by
  revert b; decide

theorem rmask_and_gmask (b : BitOffset) : rmask b &&& gmask b = 0 := by
  refine BitVec.eq_of_getLsbD_eq fun j _ => ?_
  rw [BitVec.getLsbD_and, getLsbD_rmask, getLsbD_gmask, ← Bool.decide_and]
  exact (decide_eq_false (by omega)).trans BitVec.getLsbD_zero.symm

theorem gmask_and_rmask (b : BitOffset) : gmask b &&& rmask b = 0 :=
  (BitVec.and_comm _ _).trans (rmask_and_gmask b)

theorem gmask_eq_rmask_shift (b : BitOffset) : gmask b = rmask b <<< 8 :=
  BitVec.shiftLeft_add _ _ _

/-- The two bits a bar owns, at its bit offset in each plane (R53). -/
theorem getLsbD_rmask_or_gmask (b : BitOffset) (j : Nat) :
    (rmask b ||| gmask b).getLsbD j = decide (j = b.val ∨ j = b.val + 8) := by
  rw [BitVec.getLsbD_or, getLsbD_rmask, getLsbD_gmask, Bool.decide_or]

theorem masks_disjoint_of_ne {b b' : BitOffset} (h : b ≠ b') :
    (rmask b ||| gmask b) &&& (rmask b' ||| gmask b') = 0 := by
  have hne : b.val ≠ b'.val := Fin.val_ne_of_ne h
  refine BitVec.eq_of_getLsbD_eq fun j _ => ?_
  rw [BitVec.getLsbD_and, getLsbD_rmask_or_gmask, getLsbD_rmask_or_gmask, ← Bool.decide_and]
  exact (decide_eq_false (by omega)).trans BitVec.getLsbD_zero.symm

/-! ## UPDATE and SETP (40_mapper.md R56, R57) -/

/-- UPDATE's result is the one word that has the colour's two bits at the offset and the old bits elsewhere. -/
theorem update_eq_of_bits {w v : Word} {b : BitOffset} {c : Colour} (hr : v.getLsbD b.val = redVal c)
    (hg : v.getLsbD (b.val + 8) = grnVal c)
    (ho : ∀ j, j ≠ b.val → j ≠ b.val + 8 → v.getLsbD j = w.getLsbD j) : update w b c = v := by
  refine BitVec.eq_of_getLsbD_eq fun j _ => ?_
  rw [getLsbD_update]
  split
  next h => rw [h, hr]
  next h =>
    split
    next h' => rw [h', hg]
    next h' => exact (ho j h h').symm

theorem update_of_bits_eq {w : Word} {b : BitOffset} {c : Colour} (hr : w.getLsbD b.val = redVal c)
    (hg : w.getLsbD (b.val + 8) = grnVal c) : update w b c = w :=
  update_eq_of_bits hr hg fun _ _ _ => rfl

theorem getLsbD_update_red (w : Word) (b : BitOffset) (c : Colour) :
    (update w b c).getLsbD b.val = redVal c := by
  rw [getLsbD_update, if_pos rfl]

theorem getLsbD_update_grn (w : Word) (b : BitOffset) (c : Colour) :
    (update w b c).getLsbD (b.val + 8) = grnVal c := by
  rw [getLsbD_update, if_neg (by omega), if_pos rfl]

theorem getLsbD_update_other (w : Word) (b : BitOffset) (c : Colour) (j : Nat) (hr : j ≠ b.val)
    (hg : j ≠ b.val + 8) : (update w b c).getLsbD j = w.getLsbD j := by
  rw [getLsbD_update, if_neg hr, if_neg hg]

theorem update_update_same (w : Word) (b : BitOffset) (c1 c2 : Colour) :
    update (update w b c1) b c2 = update w b c2 := by
  refine update_eq_of_bits (getLsbD_update_red w b c2) (getLsbD_update_grn w b c2) fun j hr hg => ?_
  rw [getLsbD_update_other w b c2 j hr hg, getLsbD_update_other w b c1 j hr hg]

theorem update_comm (w : Word) {b1 b2 : BitOffset} (c1 c2 : Colour) (h : b1 ≠ b2) :
    update (update w b1 c1) b2 c2 = update (update w b2 c2) b1 c1 := by
  have hne : b1.val ≠ b2.val := Fin.val_ne_of_ne h
  refine BitVec.eq_of_getLsbD_eq fun j _ => ?_
  by_cases h2 : j = b2.val ∨ j = b2.val + 8
  · have h1 : ¬ (j = b1.val ∨ j = b1.val + 8) := by omega
    obtain ⟨hr, hg⟩ := not_or.mp h1
    simp only [getLsbD_update, if_neg hr, if_neg hg]
  · obtain ⟨hr, hg⟩ := not_or.mp h2
    simp only [getLsbD_update, if_neg hr, if_neg hg]

/-- UPDATE in the two masks: both bits cleared, then the colour's set. -/
theorem update_eq_masks (w : Word) (b : BitOffset) (c : Colour) :
    update w b c = (w &&& ~~~(rmask b) &&& ~~~(gmask b)) ||| (if redVal c then rmask b else 0)
      ||| (if grnVal c then gmask b else 0) := by
  simp only [update, bitWord_shift, rmask, gmask]

/-- Setting the bits of one mask and clearing those of a disjoint one may be done in either order. -/
theorem set_clear_comm (w : Word) {x y : Word} (h : x &&& y = 0) :
    (w ||| x) &&& ~~~y = (w &&& ~~~y) ||| x := by
  ext j hj
  have hxy : (x &&& y)[j] = (0 : Word)[j] := by rw [h]
  rw [BitVec.getElem_and] at hxy
  cases hxj : x[j] <;> simp_all

theorem clear_set_same (w x : Word) : (w &&& ~~~x) ||| x = w ||| x := by
  ext j hj
  cases hxj : x[j] <;> simp [hxj]

/-! D00's set and clear steps, colour by colour (R56). -/

theorem update_red (w : Word) (b : BitOffset) : update w b .red = (w ||| rmask b) &&& ~~~(gmask b) :=
  calc update w b .red
    _ = (w &&& ~~~(rmask b) &&& ~~~(gmask b)) ||| rmask b := by simp [update_eq_masks, redVal, grnVal]
    _ = ((w &&& ~~~(rmask b)) ||| rmask b) &&& ~~~(gmask b) := (set_clear_comm _ (rmask_and_gmask b)).symm
    _ = (w ||| rmask b) &&& ~~~(gmask b) := by rw [clear_set_same]

theorem update_green (w : Word) (b : BitOffset) : update w b .green = (w ||| gmask b) &&& ~~~(rmask b) :=
  calc update w b .green
    _ = (w &&& ~~~(rmask b) &&& ~~~(gmask b)) ||| gmask b := by simp [update_eq_masks, redVal, grnVal]
    _ = (w &&& ~~~(rmask b)) ||| gmask b := clear_set_same _ _
    _ = (w ||| gmask b) &&& ~~~(rmask b) := (set_clear_comm _ (gmask_and_rmask b)).symm

theorem update_yellow (w : Word) (b : BitOffset) : update w b .yellow = w ||| rmask b ||| gmask b :=
  calc update w b .yellow
    _ = ((w &&& ~~~(rmask b) &&& ~~~(gmask b)) ||| rmask b) ||| gmask b := by
      simp [update_eq_masks, redVal, grnVal]
    _ = (((w &&& ~~~(rmask b)) ||| rmask b) &&& ~~~(gmask b)) ||| gmask b := by
      rw [set_clear_comm _ (rmask_and_gmask b)]
    _ = w ||| rmask b ||| gmask b := by rw [clear_set_same, clear_set_same]

theorem update_off (w : Word) (b : BitOffset) : update w b .off = w &&& ~~~(rmask b) &&& ~~~(gmask b) := by
  simp [update_eq_masks, redVal, grnVal]

/-- The bar's red bit is the one its colour gives (10_state.md R13 read backwards). -/
theorem redVal_readColour (img : Image) (p : Bar) :
    redVal (readColour img p) = (wordAt img (mapGroup p)).getLsbD (mapBit p).val :=
  redVal_colourOfBits _ _

/-- The bar's green bit is the one its colour gives. -/
theorem grnVal_readColour (img : Image) (p : Bar) :
    grnVal (readColour img p) = (wordAt img (mapGroup p)).getLsbD ((mapBit p).val + 8) :=
  grnVal_colourOfBits _ _

theorem wordAt_setp_same (img : Image) (p : Bar) (c : Colour) :
    wordAt (setp img p c) (mapGroup p) = update (wordAt img (mapGroup p)) (mapBit p) c :=
  wordAt_setWordAt_same _ _ _

theorem wordAt_setp_other (img : Image) {p : Bar} {g : Group} (c : Colour) (h : g ≠ mapGroup p) :
    wordAt (setp img p c) g = wordAt img g :=
  wordAt_setWordAt_other _ _ h

theorem setp_comm (img : Image) {p q : Bar} (c d : Colour) (h : p ≠ q) :
    setp (setp img p c) q d = setp (setp img q d) p c := by
  refine image_ext_colours fun r => ?_
  simp only [readColour_setp]
  split
  next hq => rw [if_neg (hq ▸ h.symm)]
  next => rfl

theorem readColour_red_green_off (img : Image) (p q : Bar) :
    readColour (setp (setp (setp img p .red) p .green) p .off) q = if q = p then .off else readColour img q := by
  simp only [readColour_setp]
  split <;> rfl

/-! ## The packed view (40_mapper.md R58) -/

theorem wordAt_applyLanes (img : Image) (m : Group → Byte) (c : Colour) (i : Group) :
    wordAt (applyLanes img m c) i = laneWord (wordAt img i) (m i) c := by
  fin_cases i <;> rfl

/-- One bit of a lane under a mask: the plane's value where the mask has a 1, the old bit elsewhere. -/
theorem getLsbD_lane (lane m : Byte) (v : Bool) {j : Nat} (hj : j < 8) :
    (if v then lane ||| m else lane &&& ~~~m).getLsbD j = if m.getLsbD j then v else lane.getLsbD j := by
  cases v <;> cases hm : m.getLsbD j <;> simp [hm, hj, -BitVec.getLsbD_eq_getElem]

theorem getLsbD_laneWord_red (w : Word) (m : Byte) (c : Colour) (b : BitOffset) :
    (laneWord w m c).getLsbD b.val = if m.getLsbD b.val then redVal c else w.getLsbD b.val := by
  have hb := b.isLt
  rw [laneWord, BitVec.getLsbD_append, if_pos hb, getLsbD_lane _ _ _ hb, getLsbD_lowByte,
    decide_eq_true hb, Bool.true_and]

theorem getLsbD_laneWord_grn (w : Word) (m : Byte) (c : Colour) (b : BitOffset) :
    (laneWord w m c).getLsbD (b.val + 8) = if m.getLsbD b.val then grnVal c else w.getLsbD (b.val + 8) := by
  have hb := b.isLt
  rw [laneWord, BitVec.getLsbD_append, if_neg (by omega), Nat.add_sub_cancel, getLsbD_lane _ _ _ hb,
    getLsbD_highByte, decide_eq_true hb, Bool.true_and, Nat.add_comm]

theorem readColour_applyLanes (img : Image) (m : Group → Byte) (c : Colour) (p : Bar) :
    readColour (applyLanes img m c) p =
      if (m (mapGroup p)).getLsbD (mapBit p).val then c else readColour img p := by
  simp only [readColour, wordAt_applyLanes, getLsbD_laneWord_red, getLsbD_laneWord_grn]
  split
  · exact colourOfBits_vals c
  · rfl

theorem getLsbD_laneMask_of_bar (bars : Bar → Bool) (p : Bar) :
    (laneMask bars (mapGroup p)).getLsbD (mapBit p).val = bars p := by
  rw [getLsbD_laneMask, mapInv_map]

theorem setAll_eq_applyLanes (img : Image) (bars : List Bar) (c : Colour) :
    setAll img bars c = applyLanes img (laneMask fun p => decide (p ∈ bars)) c := by
  refine image_ext_colours fun p => ?_
  rw [readColour_setAll, readColour_applyLanes, getLsbD_laneMask_of_bar]
  simp only [decide_eq_true_eq]

theorem laneMask_single (p : Bar) (i : Group) :
    laneMask (fun q => decide (q = p)) i = if i = mapGroup p then 1#8 <<< (mapBit p).val else 0 := by
  refine BitVec.eq_of_getLsbD_eq fun j hj => ?_
  have hbit : (laneMask (fun q => decide (q = p)) i).getLsbD j = decide (i = mapGroup p ∧ j = (mapBit p).val) := by
    refine (getLsbD_laneMask (fun q => decide (q = p)) i ⟨j, hj⟩).trans ?_
    simp only [mapInv_eq_iff, Fin.ext_iff (n := 8)]
  rw [hbit]
  by_cases hi : i = mapGroup p
  · rw [if_pos hi, ← BitVec.twoPow_eq, BitVec.getLsbD_twoPow]
    simp [hi, eq_comm]
  · simp [hi]

/-! ## The mapper outputs (40_mapper.md R59) -/

theorem validBar_val (n : Bar) : validBar n.val = some n := validBar_of_lt n.isLt

/-- SET and FILL of a legal bar end on the same mapper ports, whatever they write to the image. -/
theorem exec_of_legalBar {i : Instr} {n : Bar} {c : Colour} (h : IsBarCommand i n.val c) (s : State) :
    ∃ img, exec i s = .next (finishImage img (.valid (mapperValues s.zeroAtChip n c)) s) := by
  rcases h with rfl | rfl
  · exact ⟨_, by rw [exec, execSet, validBar_val]⟩
  · exact ⟨_, by rw [exec, execFill, validBar_val]⟩

theorem exec_of_illegalBar {i : Instr} {n : Nat} {c : Colour} (h : IsBarCommand i n c) (hn : 24 ≤ n) (s : State) :
    exec i s = .next (raise .outOfRange .invalid s) := by
  rcases h with rfl | rfl
  · rw [exec, execSet, validBar_of_ge hn]
  · rw [exec, execFill, validBar_of_ge hn]

/-! ## The obligations of the mapper family -/

/-- Settles O6: an involution is a bijection. -/
theorem orientTranslatesLogicalBars : Obligations.OrientTranslatesLogicalBars :=
  ⟨orient_val, orient_orient, orient_bijective, rfl, rfl⟩

/-- Settles O7, by the half the bar is in. -/
theorem mapFollowsTheWiringFormula : Obligations.MapFollowsTheWiringFormula :=
  ⟨fun p => ⟨mapGroup_val p, mapBit_val p, rfl⟩, lowNibble_iff, highNibble_iff⟩

/-- Settles O8: the 24 rows are a closed finite table, and MAPINV makes MAP a bijection. -/
theorem mapTableIsABijection : Obligations.MapTableIsABijection :=
  ⟨by decide, by decide, mapBar_bijective⟩

/-- Settles O9: the bit-level forms on the 24 legal bars, MAPINV by the top bit of the offset. -/
theorem mapEquivalentFormsAgree : Obligations.MapEquivalentFormsAgree := by
  refine ⟨by decide, fun g b => ?_, mapInv_map, fun n hge hle => ⟨validBar_of_ge hge, by omega⟩⟩
  rw [offset_topBit]
  simp only [mapInv, decide_eq_true_eq, ge_iff_le]

/-- Settles O11: two bars of one word have different bit offsets. -/
theorem masksAreOneHotAndDisjoint : Obligations.MasksAreOneHotAndDisjoint :=
  ⟨fun b => ⟨rfl, rfl, gmask_eq_rmask_shift b, rmask_and_gmask b⟩,
    fun _ _ hne hg => masks_disjoint_of_ne (mapBit_ne_of_same_word hne hg)⟩

/-- Settles O12, colour by colour. -/
theorem colourGivesTheTwoBits : Obligations.ColourGivesTheTwoBits := by
  refine ⟨rfl, fun c => ?_⟩
  cases c <;> exact ⟨rfl, rfl⟩

/-- Settles O13: every claim is about the word that has the colour's two bits and the old ones elsewhere, or about the
set and clear steps of disjoint masks. -/
theorem updateWritesExactlyTheBarsBits : Obligations.UpdateWritesExactlyTheBarsBits :=
  ⟨fun w b c => ⟨getLsbD_update_red w b c, getLsbD_update_grn w b c, getLsbD_update_other w b c⟩,
    fun w b => ⟨update_red w b, update_green w b, update_yellow w b, update_off w b⟩,
    fun w b => ⟨set_clear_comm w (rmask_and_gmask b), set_clear_comm w (gmask_and_rmask b)⟩,
    fun _ _ _ hr hg => update_of_bits_eq hr hg,
    update_update_same,
    fun w _ _ c1 c2 hne => update_comm w c1 c2 hne,
    fun _ _ _ => rfl,
    by decide, by decide, by decide⟩

/-- Settles O14, from the colours read back after SETP. -/
theorem setpWritesOnePhysicalBar : Obligations.SetpWritesOnePhysicalBar := by
  refine ⟨fun img p c => ⟨wordAt_setp_same img p c, fun g hg => wordAt_setp_other img c hg⟩,
    fun img p q c d hne => setp_comm img c d hne, fun img p => ?_⟩
  simp only [← redVal_readColour, ← grnVal_readColour, readColour_red_green_off]
  refine ⟨rfl, rfl, fun q hq => ?_⟩
  rw [if_neg hq]
  exact ⟨rfl, rfl⟩

/-- Settles O17: both forms show the same colour at every bar, and a lane's bits are its mask's. -/
theorem laneMasksEqualSettingEachBar : Obligations.LaneMasksEqualSettingEachBar := by
  refine ⟨getLsbD_laneMask, setAll_eq_applyLanes, wordAt_applyLanes, fun img m c i b hm => ?_, laneMask_single⟩
  rw [wordAt_applyLanes, getLsbD_laneWord_red, getLsbD_laneWord_grn, hm]
  exact ⟨rfl, rfl⟩

/-- Settles O38: the ports are those of the end each operand selects, and no other command drives the mapper. -/
theorem mapperOutputsDescribeTheOperandsBar : Obligations.MapperOutputsDescribeTheOperandsBar := by
  refine ⟨fun i n c s t hi h => ?_, fun _ => rfl, rfl, fun i n c s t hi hn h => ?_, fun i s t hi h => ?_⟩
  · obtain ⟨img, hx⟩ := exec_of_legalBar hi s
    obtain rfl := Host.Outcome.next.inj (hx.symm.trans h)
    rfl
  · obtain rfl := Host.Outcome.next.inj ((exec_of_illegalBar hi hn s).symm.trans h)
    rfl
  · obtain ⟨o, ho, hy⟩ := exec_yields h
    have hm : o.mapper = .notDriven := by
      by_contra hm
      obtain ⟨n, c, hbar⟩ := hy.mapper_driven_iff.mp hm
      exact hi n c hbar
    rw [ho, ← hm]
    rfl

end Sys2Proof.Machine

/-! ## FILL's lane masks (41_buffer_commands.md R64) -/

namespace Sys2Proof.Machine

/-- FILL's bars are those whose logical number is at most the operand's, under both straps (R63). -/
theorem inFillRange_eq (z : Bool) (n p : Bar) : inFillRange z n p = decide ((orient z p).val ≤ n.val) := by
  have hn := n.isLt
  have hp := p.isLt
  rw [orient_val]
  cases z with
  | false => rfl
  | true =>
    simp only [inFillRange, if_true, decide_eq_decide]
    omega

/-- A nibble holds at most four low ones, so only these counts occur. -/
theorem getLsbD_lowOnes {j k : Nat} (hj : j ≤ 4) (hk : k < 8) : (lowOnes j).getLsbD k = decide (k < j) := by
  have h : ∀ (j : Fin 5) (k : Fin 8), (lowOnes j.val).getLsbD k.val = decide (k.val < j.val) := by decide
  exact h ⟨j, Nat.lt_succ_of_le hj⟩ ⟨k, hk⟩

theorem clampNibble_le (x : Int) : clampNibble x ≤ 4 := by
  unfold clampNibble
  omega

theorem lt_clampNibble_iff {k : Nat} (hk : k < 4) (x : Int) : k < clampNibble x ↔ (k : Int) < x := by
  unfold clampNibble
  omega

/-- The low nibble of two joined runs of low ones. -/
theorem getLsbD_nibbles_low (x y : Int) {k : Nat} (hk : k < 4) :
    (lowOnes (clampNibble x) ||| (lowOnes (clampNibble y) <<< 4)).getLsbD k = decide ((k : Int) < x) := by
  rw [BitVec.getLsbD_or, BitVec.getLsbD_shiftLeft, decide_eq_true hk,
    getLsbD_lowOnes (clampNibble_le x) (by omega)]
  simp [lt_clampNibble_iff hk]

/-- The high nibble of two joined runs of low ones. -/
theorem getLsbD_nibbles_high (x y : Int) {k : Nat} (hk : k < 4) :
    (lowOnes (clampNibble x) ||| (lowOnes (clampNibble y) <<< 4)).getLsbD (k + 4) = decide ((k : Int) < y) := by
  have hx := clampNibble_le x
  rw [BitVec.getLsbD_or, BitVec.getLsbD_shiftLeft, Nat.add_sub_cancel, getLsbD_lowOnes hx (by omega),
    getLsbD_lowOnes (clampNibble_le y) (by omega), decide_eq_false (show ¬ k + 4 < clampNibble x by omega)]
  simp [lt_clampNibble_iff hk, show k + 4 < 8 by omega]

theorem mapInv_val (g : Group) (b : BitOffset) :
    (mapInv g b).val = 4 * g.val + b.val % 4 + (if b.val ≥ 4 then 12 else 0) := rfl

/-- Under ZeroAtFar the mask's ones are the bars from 0 to the operand's, nibble by nibble. -/
theorem getLsbD_farMask (n : Bar) (i : Group) (b : BitOffset) :
    (farMask n i).getLsbD b.val = decide ((mapInv i b).val ≤ n.val) := by
  have hb := b.isLt
  rw [mapInv_val]
  rcases Nat.lt_or_ge b.val 4 with hlow | hhigh
  · rw [farMask, getLsbD_nibbles_low _ _ hlow, if_neg (Nat.not_le.mpr hlow), decide_eq_decide]
    omega
  · obtain ⟨k, hk⟩ : ∃ k, b.val = k + 4 := ⟨b.val - 4, by omega⟩
    rw [hk, farMask, getLsbD_nibbles_high _ _ (by omega), if_pos (by omega), decide_eq_decide]
    omega

/-- The strap's mirror reverses the bits and swaps the outer words (40_mapper.md R60). -/
theorem orient_true_mapInv (i : Group) (b : BitOffset) : orient true (mapInv i b) = mapInv i.rev b.rev := by
  revert i b; decide

theorem fillMask_false (n : Bar) (i : Group) : fillMask false n i = farMask n i := rfl

theorem fillMask_true (n : Bar) (i : Group) : fillMask true n i = (farMask n i.rev).reverse := by
  fin_cases i <;> rfl

theorem getLsbD_reverse_byte (m : Byte) (b : BitOffset) : m.reverse.getLsbD b.val = m.getLsbD b.rev.val := by
  have hb := b.isLt
  rw [BitVec.getLsbD_reverse, BitVec.getMsbD_eq_getLsbD, decide_eq_true hb, Bool.true_and, Fin.val_rev,
    show 8 - 1 - b.val = 8 - (b.val + 1) by omega]

/-- Every bit of FILL's mask, under both straps. -/
theorem getLsbD_fillMask (z : Bool) (n : Bar) (i : Group) (b : BitOffset) :
    (fillMask z n i).getLsbD b.val = decide ((orient z (mapInv i b)).val ≤ n.val) := by
  cases z with
  | false => exact getLsbD_farMask n i b
  | true => rw [fillMask_true, getLsbD_reverse_byte, getLsbD_farMask, orient_true_mapInv]

theorem fillMask_eq_laneMask (z : Bool) (n : Bar) (i : Group) : fillMask z n i = laneMask (inFillRange z n) i := by
  refine BitVec.eq_of_getLsbD_eq fun j hj => ?_
  calc (fillMask z n i).getLsbD j
    _ = inFillRange z n (mapInv i ⟨j, hj⟩) := by
      rw [inFillRange_eq]; exact getLsbD_fillMask z n i ⟨j, hj⟩
    _ = (laneMask (inFillRange z n) i).getLsbD j := (getLsbD_laneMask (inFillRange z n) i ⟨j, hj⟩).symm

/-- The loop and the one step show the same colour at every bar. -/
theorem fillUpTo_eq_applyLanes (z : Bool) (n : Bar) (c : Colour) (img : Image) :
    fillUpTo z c img n.val n.isLt = applyLanes img (fillMask z n) c := by
  refine image_ext_colours fun p => ?_
  rw [readColour_fillUpTo, readColour_applyLanes, fillMask_eq_laneMask, getLsbD_laneMask_of_bar, inFillRange_eq]
  simp only [decide_eq_true_eq]

/-- Under ZeroAtChip the masks are those of ZeroAtFar, bit-reversed and word-swapped. -/
theorem fillMask_true_eq_reverse (n : Bar) {i j : Group} (h : i.val + j.val = 2) :
    fillMask true n i = (fillMask false n j).reverse := by
  obtain rfl : j = i.rev := Fin.ext (by rw [Fin.val_rev]; omega)
  exact fillMask_true n i

/-! ## The ends of CLEAR, SET and DRAW (41_buffer_commands.md R61, R62, R65) -/

theorem exec_clear (s : State) : exec .clear s = .next (finishImage imageZero .notDriven s) := rfl

theorem exec_draw (s : State) : exec .draw s = .next (emitAndReport (drawBytes s.image) none s) := rfl

theorem exec_set_legalBar (n : Bar) (c : Colour) (s : State) :
    exec (.set n.val c) s = .next (finishImage (setp s.image (orient s.zeroAtChip n) c)
      (.valid (mapperValues s.zeroAtChip n c)) s) := by
  rw [exec, execSet, validBar_val]

theorem image_of_exec_set {n : Bar} {c : Colour} {s t : State} (h : exec (.set n.val c) s = .next t) :
    t.image = setp s.image (orient s.zeroAtChip n) c := by
  obtain rfl := Host.Outcome.next.inj ((exec_set_legalBar n c s).symm.trans h)
  rfl

/-- SETP of the colour a bar already shows changes nothing. -/
theorem setp_readColour (img : Image) (p : Bar) : setp img p (readColour img p) = img := by
  refine image_ext_colours fun q => ?_
  rw [readColour_setp]
  split
  next hq => rw [hq]
  next => rfl

/-- R62's example, SET 13 Yellow on a zero image: physical bar 10 under ZeroAtChip, 13 under ZeroAtFar. -/
theorem setp_yellow_at_bar13 (z : Bool) :
    setp imageZero (orient z 13) .yellow =
      if z then ⟨0x0000, 0x0000, 0x0404⟩ else ⟨0x2020, 0x0000, 0x0000⟩ := by
  revert z; decide

theorem outBytes_of_exec_draw {s t : State} (h : exec .draw s = .next t) :
    t.outputs.bind Outputs.outBytes = some (drawBytes s.image) := by
  obtain rfl := Host.Outcome.next.inj ((exec_draw s).symm.trans h)
  rfl

theorem image_of_exec_clear {s t : State} (h : exec .clear s = .next t) : t.image = imageZero := by
  obtain rfl := Host.Outcome.next.inj ((exec_clear s).symm.trans h)
  rfl

/-! ## The obligations of the buffer-command family -/

/-- Settles O18: both forms show the same colour at every bar, since the masks' bits are the bars FILL writes. -/
theorem fillLoopEqualsLaneMaskForm : Obligations.FillLoopEqualsLaneMaskForm :=
  ⟨fillUpTo_eq_applyLanes, fillMask_eq_laneMask, fillMask_false, fun n _ _ h => fillMask_true_eq_reverse n h,
    by decide, by decide⟩

/-- Settles O20, from the one SETP a legal bar runs and the colours read back after it. -/
theorem setWritesOneOrientedBar : Obligations.SetWritesOneOrientedBar := by
  refine ⟨exec_set_legalBar, fun n c s hn => exec_of_illegalBar (.inl rfl) hn s, fun n c s t h p => ?_,
    fun n c s t h hc => ?_, fun s t hs h => ?_⟩
  · rw [image_of_exec_set h, readColour_setp]
  · rw [image_of_exec_set h, ← hc, setp_readColour]
  · rw [image_of_exec_set (n := 13) h, hs]
    exact setp_yellow_at_bar13 s.zeroAtChip

/-- Settles O19: CLEAR's one end is the report of the zero image. -/
theorem clearZeroesTheImage : Obligations.ClearZeroesTheImage :=
  ⟨exec_clear, decode_formatB_clear 0 0⟩

/-- Settles O24: the payload depends on the image alone, which CLEAR leaves zero. -/
theorem drawSendsTheImageLittleEndian : Obligations.DrawSendsTheImageLittleEndian := by
  refine ⟨exec_draw, fun s t hs h => ?_, fun s t u hclear hdraw => ?_, decode_formatB_draw 0 0⟩
  · rw [outBytes_of_exec_draw h, hs]
    decide
  · rw [outBytes_of_exec_draw hdraw, image_of_exec_clear hclear]
    decide

end Sys2Proof.Machine

/-! ## What a write leaves, and the ends of the commands of unit CE (42_command_encoder.md R68 to R74) -/

namespace Sys2Proof.Machine

/-- `Emit` and the report after it are one write to the device address 0xE0 (R76, R77). -/
theorem emitAndReport_eq_afterWrite (payload : List Byte) (diag : Option Bool) (s : State) :
    emitAndReport payload diag s = afterWrite s payload diag := rfl

theorem exec_pwron (s : State) :
    exec .pwron s = .next (afterWrite { s with pwr := powerAfter .on s.xportFail } [0x21, 0x81] none) := rfl

theorem exec_pwroff (s : State) :
    exec .pwroff s = .next (afterWrite { s with pwr := powerAfter .off s.xportFail } [0x80, 0x20] none) := rfl

theorem exec_blink_of_blinkIndex {rate2 : Nat} {idx : Fin 4} (h : blinkIndex rate2 = some idx) (s : State) :
    exec (.blink rate2) s = .next (afterWrite s [blinkByte idx, 0x00] none) := by
  rw [exec, execBlink, h]
  exact congrArg Host.Outcome.next (emitAndReport_eq_afterWrite _ _ s)

theorem exec_blink_unsupported {rate2 : Nat} (h : ¬ SupportedRate rate2) (s : State) :
    exec (.blink rate2) s = .next (raise .invalidRate .notDriven s) := by
  rw [exec, execBlink, blinkIndex_eq_none_iff_not_supportedRate.mpr h]

/-! ## BRIGHT's byte (42_command_encoder.md R71, R72) -/

theorem dimByte_eq_of_nonneg {level : Int} (h : 0 ≤ level) :
    dimByte level = 0xE0#8 ||| BitVec.ofNat 8 level.toNat := by
  obtain ⟨n, rfl⟩ := Int.eq_ofNat_of_zero_le h
  rw [dimByte, BitVec.ofInt_natCast, Int.toNat_natCast]

/-- The base has no bit in its low nibble, so R72's or is an addition. -/
theorem dim_or_eq_add {lvl : Nat} (h : lvl ≤ 15) :
    0xE0#8 ||| BitVec.ofNat 8 lvl = 0xE0#8 + BitVec.ofNat 8 lvl := by
  have hall : ∀ l : Fin 16, 0xE0#8 ||| BitVec.ofNat 8 l.val = 0xE0#8 + BitVec.ofNat 8 l.val := by decide
  exact hall ⟨lvl, Nat.lt_succ_of_le h⟩

theorem diagOfLevel_eq_decide (level : Int) : diagOfLevel level = decide (level < 0 ∨ level > 15) :=
  (Bool.decide_or _ _).symm

theorem exec_bright_afterWrite (level : Int) (s : State) :
    exec (.bright level) s = .next (afterWrite s [0xE0#8 ||| BitVec.ofNat 8 (clampLevel level).toNat, 0x00]
      (some (decide (level < 0 ∨ level > 15)))) := by
  rw [exec_bright, emitAndReport_eq_afterWrite, brightBytes, dimByte_eq_of_nonneg (clampLevel_range level).1,
    diagOfLevel_eq_decide, pad]

/-! ## The `PWR` state machine (42_command_encoder.md R70) -/

/-- `PWR` after a command, from the transport's answer and `PWR` before it. -/
def powerNext : Instr → Bool → Power → Power
  | .pwron, xportFail, _ => powerAfter .on xportFail
  | .pwroff, xportFail, _ => powerAfter .off xportFail
  | _, _, p => p

theorem powerNext_of_ne {i : Instr} (hon : i ≠ .pwron) (hoff : i ≠ .pwroff) (xportFail : Bool) (p : Power) :
    powerNext i xportFail p = p := by
  cases i with
  | pwron => exact absurd rfl hon
  | pwroff => exact absurd rfl hoff
  | _ => rfl

/-- `PWR` reaches nothing but `PWR`: started with another power state a command ends in the same state, but for `PWR`,
which the state machine gives. -/
theorem exec_with_pwr (i : Instr) (s : State) (p : Power) :
    ∃ t, exec i s = .next t ∧ exec i { s with pwr := p } = .next { t with pwr := powerNext i s.xportFail p } := by
  cases i with
  | clear | draw | pwron | pwroff | bright => exact ⟨_, rfl, rfl⟩
  | set n c | fill n c =>
    simp only [exec, execSet, execFill]
    cases validBar n <;> exact ⟨_, rfl, rfl⟩
  | blink rate2 =>
    simp only [exec, execBlink]
    cases blinkIndex rate2 <;> exact ⟨_, rfl, rfl⟩

theorem pwr_of_exec {i : Instr} {s t : State} (h : exec i s = .next t) :
    t.pwr = powerNext i s.xportFail s.pwr := by
  obtain ⟨u, -, hu⟩ := exec_with_pwr i s s.pwr
  obtain rfl := Host.Outcome.next.inj (h.symm.trans hu)
  rfl

/-- INIT leaves the power state of its PWRON: BRIGHT, where it runs, does not touch it. -/
theorem pwr_of_runInit {level : Int} {z failOn failBright : Bool} {s t : State}
    (h : runInit level z failOn failBright s = .next t) : t.pwr = powerAfter .on failOn := by
  cases failOn with
  | true =>
    obtain rfl := Host.Outcome.next.inj ((runInit_pwron_failed level z failBright s).symm.trans h)
    rfl
  | false =>
    rw [runInit_pwron_ok] at h
    exact pwr_of_exec h

/-! ## The obligations of the command-encoder family -/

/-- Settles O29: every clause reads off the power state machine that every command runs. -/
theorem powerStateMachine : Obligations.PowerStateMachine := by
  refine ⟨rfl, fun s t h => pwr_of_exec h, fun s t h => pwr_of_exec h, fun i s t hon hoff h => ?_,
    fun level z f1 f2 s t h => pwr_of_runInit h, fun i s p => ?_⟩
  · rw [pwr_of_exec h, powerNext_of_ne hon hoff]
  · obtain ⟨t, ht, hu⟩ := exec_with_pwr i s p
    exact ⟨t, _, ht, hu, rfl, rfl, rfl⟩

/-- Settles O30: the clamped level is between 0 and 15, where R72's byte is a nibble beside the base. -/
theorem brightClampsAndSends : Obligations.BrightClampsAndSends := by
  refine ⟨fun level s => ?_, fun s => ⟨exec_bright_afterWrite 20 s, exec_bright_afterWrite (-1) s,
    exec_bright_afterWrite 0 s, exec_bright_afterWrite 15 s⟩⟩
  obtain ⟨h0, h15⟩ := clampLevel_range level
  exact ⟨(clampLevel level).toNat, Int.toNat_of_nonneg h0, dim_or_eq_add (Int.toNat_le.mpr h15),
    exec_bright_afterWrite level s⟩

/-- Settles O31, by the table's index of each supported rate. -/
theorem blinkSendsTheTableByte : Obligations.BlinkSendsTheTableByte := fun s =>
  ⟨exec_blink_of_blinkIndex (idx := 0) rfl s, exec_blink_of_blinkIndex (idx := 1) rfl s,
    exec_blink_of_blinkIndex (idx := 2) rfl s, exec_blink_of_blinkIndex (idx := 3) rfl s,
    fun _ h => exec_blink_unsupported h s⟩

/-- Settles O26: the bytes are closed constants, the two tables short lists of them. -/
theorem commandBytesAreTheChips : Obligations.CommandBytesAreTheChips :=
  ⟨rfl, rfl, rfl, rfl, rfl, rfl, by decide, by decide⟩

/-- Settles O27: PWRON's one end is the write of its two bytes. -/
theorem pwronSendsOscillatorThenDisplay : Obligations.PwronSendsOscillatorThenDisplay :=
  ⟨exec_pwron, decode_formatC_pwron 0⟩

/-- Settles O28: PWROFF's one end is the write of its two bytes. -/
theorem pwroffSendsDisplayThenOscillator : Obligations.PwroffSendsDisplayThenOscillator :=
  ⟨exec_pwroff, decode_formatC_pwroff 0⟩

end Sys2Proof.Machine

/-! ## The two operand errors (60_exceptions.md R79, R80) -/

namespace Sys2Proof.Machine

/-- OutOfRange is the status of `raise` alone, so it fixes the whole next state. -/
theorem eq_raise_of_outOfRange {i : Instr} {s t : State} (h : exec i s = .next t)
    (he : statusOf t = some .outOfRange) : t = raise .outOfRange .invalid s := by
  obtain ⟨n, c, hi, hn⟩ := (statusOf_eq_outOfRange_iff h).mp he
  exact Host.Outcome.next.inj (h.symm.trans (exec_of_illegalBar hi hn s))

/-- InvalidRate is the status of `raise` alone, so it fixes the whole next state. -/
theorem eq_raise_of_invalidRate {i : Instr} {s t : State} (h : exec i s = .next t)
    (he : statusOf t = some .invalidRate) : t = raise .invalidRate .notDriven s := by
  obtain ⟨r, rfl, hr⟩ := (statusOf_eq_invalidRate_iff h).mp he
  exact Host.Outcome.next.inj (h.symm.trans (exec_blink_unsupported hr s))

/-! ## Failed writes (60_exceptions.md R81) -/

/-- The commands that emit, told by what they are not. -/
theorem emits_iff {i : Instr} :
    Emits i ↔ ¬ WritesImage i ∧ ¬ ∃ r, i = .blink r ∧ ¬ SupportedRate r := by
  cases i <;> simp [Emits, WritesImage]

theorem Yields.transportError_iff {f : Bool} {i : Instr} {o : Outputs} (h : Yields f i o) :
    o.status = .transportError ↔ f = true ∧ Emits i := by
  cases h with
  | clear => simp [okPorts, emits_iff, WritesImage]
  | legalBar v hi => simp [okPorts, emits_iff, hi.writesImage]
  | illegalBar hi => simp [errorPorts, emits_iff, hi.writesImage]
  | unsupportedRate hr => simp [errorPorts, Emits, hr]
  | sent hi => cases f <;> simp [sentPorts, hi]

/-- Every command that ends with TransportError is an emitting one whose write failed, and each of these does. -/
theorem statusOf_eq_transportError_iff {i : Instr} {s t : State} (h : exec i s = .next t) :
    statusOf t = some .transportError ↔ s.xportFail = true ∧ Emits i := by
  obtain ⟨o, ho, hy⟩ := exec_yields h
  simpa [statusOf, ho] using hy.transportError_iff

/-- An emitting command makes one write, and beside it changes `PWR` alone. -/
theorem exec_of_emits {i : Instr} (h : Emits i) (s : State) : ∃ payload diag,
    exec i s = .next (afterWrite { s with pwr := powerNext i s.xportFail s.pwr } payload diag) := by
  rcases h with rfl | rfl | rfl | ⟨level, rfl⟩ | ⟨r, rfl, hr⟩
  · exact ⟨_, _, exec_draw s⟩
  · exact ⟨_, _, exec_pwron s⟩
  · exact ⟨_, _, exec_pwroff s⟩
  · exact ⟨_, _, exec_bright_afterWrite level s⟩
  · cases hidx : blinkIndex r with
    | none => exact absurd hr (blinkIndex_eq_none_iff_not_supportedRate.mp hidx)
    | some idx => exact ⟨_, _, exec_blink_of_blinkIndex hidx s⟩

theorem powerNext_failed (i : Instr) (p : Power) :
    powerNext i true p = if i = .pwron ∨ i = .pwroff then .unknown else p := by
  split
  next hi => rcases hi with rfl | rfl <;> rfl
  next hi => exact powerNext_of_ne (mt .inl hi) (mt .inr hi) true p

/-! ## BRIGHT's clamp and diagnostic (60_exceptions.md R83) -/

theorem clampLevel_eq_self {level : Int} (h0 : 0 ≤ level) (h15 : level ≤ 15) : clampLevel level = level := by
  rw [clampLevel, if_neg (not_lt.mpr h0), if_neg (not_lt.mpr h15)]

theorem clampLevel_clampLevel (level : Int) : clampLevel (clampLevel level) = clampLevel level :=
  clampLevel_eq_self (clampLevel_range level).1 (clampLevel_range level).2

theorem brightBytes_clampLevel (level : Int) : brightBytes (clampLevel level) = brightBytes level := by
  rw [brightBytes, clampLevel_clampLevel, brightBytes]

theorem outside_range_iff_clampLevel_ne (level : Int) :
    level < 0 ∨ level > 15 ↔ clampLevel level ≠ level := by
  rw [← diagOfLevel_iff, diagOfLevel_eq_decide, decide_eq_true_iff]

/-! ## The obligations of the exceptions family -/

/-- Settles O33: the status comes from an illegal bar alone, whose one end is `raise`. -/
theorem outOfRangeExactlyOnIllegalBars : Obligations.OutOfRangeExactlyOnIllegalBars := by
  refine ⟨fun i s t h => statusOf_eq_outOfRange_iff h, fun i s t h he => ?_, by decide, by decide⟩
  obtain rfl := eq_raise_of_outOfRange h he
  exact ⟨rfl, rfl, rfl, rfl⟩

/-- Settles O34: the status comes from an unsupported rate alone, whose one end is `raise`. -/
theorem invalidRateOnlyFromBlink : Obligations.InvalidRateOnlyFromBlink := by
  refine ⟨fun i s t h => statusOf_eq_invalidRate_iff h, fun i s t h he => ?_, by decide⟩
  obtain rfl := eq_raise_of_invalidRate h he
  exact ⟨rfl, rfl, rfl, rfl⟩

/-- Settles O35: the status comes from an emitting command's failed write alone, and that write, with the power state
machine's answer to it, is all such a command leaves. -/
theorem transportErrorOnlyFromFailedWrites : Obligations.TransportErrorOnlyFromFailedWrites := by
  refine ⟨fun i s t h => ?_, fun i s t h he => ?_⟩
  · rw [statusOf_eq_transportError_iff h, emits_iff]
  · obtain ⟨hfail, hi⟩ := (statusOf_eq_transportError_iff h).mp he
    obtain ⟨payload, diag, hx⟩ := exec_of_emits hi s
    obtain rfl := Host.Outcome.next.inj (hx.symm.trans h)
    refine ⟨rfl, ?_, _, rfl, hfail⟩
    rw [← powerNext_failed, ← hfail]
    rfl

/-- Settles O36: only BRIGHT's ports carry a diagnostic, and BRIGHT sends the same bytes for a level and its clamped
level. -/
theorem diagnosticOnlyFromBright : Obligations.DiagnosticOnlyFromBright := by
  refine ⟨fun i s t h hi => ?_, fun level s t h => ?_, fun level s t u ht hu => ?_⟩
  · obtain ⟨o, ho, hy⟩ := exec_yields h
    have hd : ¬ o.diagClamped.isSome = true := fun hd => (hy.diagClamped_isSome_iff.mp hd).elim hi
    simpa [ho] using hd
  · obtain rfl := Host.Outcome.next.inj ((exec_bright_afterWrite level s).symm.trans h)
    exact ⟨rfl, outside_range_iff_clampLevel_ne level⟩
  · obtain rfl := Host.Outcome.next.inj ((exec_bright level s).symm.trans ht)
    rw [exec_bright, brightBytes_clampLevel] at hu
    obtain rfl := Host.Outcome.next.inj hu
    exact ⟨rfl, rfl, rfl, rfl, rfl⟩

end Sys2Proof.Machine

/-! ## The reset state (70_reset_and_hazards.md R93) -/

namespace Sys2Proof.Machine

/-- Settles O43: the spec's values stand in the fields of the reset state; the fields not spoken of here are inputs,
which have no reset value in the spec. -/
theorem resetLeavesTheSpecsValues : Obligations.ResetLeavesTheSpecsValues :=
  ⟨rfl, rfl, rfl, rfl, rfl, rfl⟩

end Sys2Proof.Machine

/-! ## Words of commands and their fields (30_encoding.md R35, R36, R41) -/

namespace Sys2Proof

theorem decode_formatB_set (colour : BitVec 2) (bar : BitVec 5) :
    decode (.bm (formatB 0b01 colour bar)) = .set bar.toNat (colourOfCode colour) := by
  obtain ⟨hop, hcolour, hbar⟩ := fields_formatB 0b01 colour bar
  rw [decode, decodeB, hop, hcolour, hbar]
  rfl

theorem decode_formatB_fill (colour : BitVec 2) (bar : BitVec 5) :
    decode (.bm (formatB 0b10 colour bar)) = .fill bar.toNat (colourOfCode colour) := by
  obtain ⟨hop, hcolour, hbar⟩ := fields_formatB 0b10 colour bar
  rw [decode, decodeB, hop, hcolour, hbar]
  rfl

theorem decode_formatC_bright (arg : BitVec 8) : decode (.ce (formatC 0b10 arg)) = .bright arg.toInt := by
  obtain ⟨hcop, harg⟩ := fields_formatC 0b10 arg
  rw [decode, decodeC, hcop, harg]
  rfl

theorem decode_formatC_blink (arg : BitVec 8) : decode (.ce (formatC 0b11 arg)) = .blink arg.toNat := by
  obtain ⟨hcop, harg⟩ := fields_formatC 0b11 arg
  rw [decode, decodeC, hcop, harg]
  rfl

/-- A level in the range of its field survives the eight bits of two's complement (R41). -/
theorem toInt_ofInt_level {level : Int} (h : -128 ≤ level ∧ level < 128) :
    (BitVec.ofInt 8 level).toInt = level := by
  rw [BitVec.toInt_ofInt]
  exact Int.bmod_eq_of_le h.1 h.2

/-- `decode` is a left inverse of `encode` on the well-formed commands. -/
theorem decode_encode {i : Instr} (h : i.wf = true) : decode (encode i) = i := by
  cases i with
  | clear => exact decode_formatB_clear 0 0
  | set n c =>
    have hn : n < 2 ^ 5 := (wf_set_iff n c).mp h
    rw [encode, decode_formatB_set, BitVec.toNat_ofNat, Nat.mod_eq_of_lt hn, colourOfCode_colourCode]
  | fill n c =>
    have hn : n < 2 ^ 5 := (wf_fill_iff n c).mp h
    rw [encode, decode_formatB_fill, BitVec.toNat_ofNat, Nat.mod_eq_of_lt hn, colourOfCode_colourCode]
  | draw => exact decode_formatB_draw 0 0
  | pwron => exact decode_formatC_pwron 0
  | pwroff => exact decode_formatC_pwroff 0
  | bright level => rw [encode, decode_formatC_bright, toInt_ofInt_level ((wf_bright_iff level).mp h)]
  | blink rate2 =>
    have hr : rate2 < 2 ^ 8 := (wf_blink_iff rate2).mp h
    rw [encode, decode_formatC_blink, BitVec.toNat_ofNat, Nat.mod_eq_of_lt hr]

/-- Every Format B word is made of its fields (R35). -/
theorem formatB_of_fields (w : BitVec 9) : formatB (fieldOp w) (fieldColour w) (fieldBar w) = w := by
  revert w; decide

/-- Every Format C word is made of its fields (R36). -/
theorem formatC_of_fields (w : BitVec 10) : formatC (fieldCop w) (fieldArg w) = w := by
  refine BitVec.eq_of_getLsbD_eq fun j hj => ?_
  simp only [formatC, fieldCop, fieldArg, BitVec.getLsbD_append, BitVec.getLsbD_extractLsb']
  rcases Nat.lt_or_ge j 8 with h | h
  · simp [h]
  · simp [Nat.not_lt.mpr h, Nat.add_sub_cancel' h, show j - 8 < 2 by omega]

theorem topBits_formatB (op colour : BitVec 2) (bar : BitVec 5) :
    ((formatB op colour bar).getLsbD 8 = op.getLsbD 1) ∧ ((formatB op colour bar).getLsbD 7 = op.getLsbD 0) := by
  revert op colour bar; decide

theorem colourCode_colourOfCode (code : BitVec 2) : colourCode (colourOfCode code) = code := by
  revert code; decide

theorem opcode_cases (op : BitVec 2) : op = 0b00 ∨ op = 0b01 ∨ op = 0b10 ∨ op = 0b11 := by
  revert op; decide

/-- A decoded Format B word encodes to itself, or for CLEAR and DRAW, whose `op` bits agree, with the rest zero. -/
theorem encode_decode_formatB (op colour : BitVec 2) (bar : BitVec 5) :
    (decode (.bm (formatB op colour bar))).wf = true ∧ encode (decode (.bm (formatB op colour bar))) =
      .bm (if op.getLsbD 1 = op.getLsbD 0 then formatB op 0 0 else formatB op colour bar) := by
  rcases opcode_cases op with rfl | rfl | rfl | rfl
  · rw [decode_formatB_clear]
    exact ⟨rfl, rfl⟩
  · rw [decode_formatB_set, wf_set_iff, encode, colourCode_colourOfCode, BitVec.ofNat_toNat, BitVec.setWidth_eq]
    exact ⟨bar.isLt, rfl⟩
  · rw [decode_formatB_fill, wf_fill_iff, encode, colourCode_colourOfCode, BitVec.ofNat_toNat, BitVec.setWidth_eq]
    exact ⟨bar.isLt, rfl⟩
  · rw [decode_formatB_draw]
    exact ⟨rfl, rfl⟩

/-- A decoded Format C word encodes to itself, or for PWRON and PWROFF, whose upper `cop` bit is 0, with the rest
zero. -/
theorem encode_decode_formatC (cop : BitVec 2) (arg : BitVec 8) :
    (decode (.ce (formatC cop arg))).wf = true ∧ encode (decode (.ce (formatC cop arg))) =
      .ce (if cop.getLsbD 1 then formatC cop arg else formatC cop 0) := by
  rcases opcode_cases cop with rfl | rfl | rfl | rfl
  · rw [decode_formatC_pwron]
    exact ⟨rfl, rfl⟩
  · rw [decode_formatC_pwroff]
    exact ⟨rfl, rfl⟩
  · rw [decode_formatC_bright, wf_bright_iff, encode, BitVec.ofInt_toInt]
    exact ⟨⟨BitVec.le_toInt arg, BitVec.toInt_lt⟩, rfl⟩
  · rw [decode_formatC_blink, wf_blink_iff, encode, BitVec.ofNat_toNat, BitVec.setWidth_eq]
    exact ⟨arg.isLt, rfl⟩

theorem topBit_formatC (cop : BitVec 2) (arg : BitVec 8) : (formatC cop arg).getLsbD 9 = cop.getLsbD 1 := by
  rw [formatC, BitVec.getLsbD_append, if_neg (by omega)]

end Sys2Proof

namespace Sys2Proof.Machine

/-! ## The obligations on words and codes -/

/-- Settles O2: the fields come back from the word, and a well-formed operand fits its field. -/
theorem decodeOfEncodeIsTheCommand : Obligations.DecodeOfEncodeIsTheCommand :=
  fun _ => decode_encode

/-- Settles O3, format by format on words written as their fields. -/
theorem encodeOfDecodeZeroesIgnoredFields : Obligations.EncodeOfDecodeZeroesIgnoredFields := by
  refine ⟨fun w => ?_, fun w => ?_⟩
  · obtain ⟨op, colour, bar, rfl⟩ : ∃ op colour bar, formatB op colour bar = w := ⟨_, _, _, formatB_of_fields w⟩
    obtain ⟨h8, h7⟩ := topBits_formatB op colour bar
    have hmask : formatB op colour bar &&& (0b110000000 : BitVec 9) = formatB op 0 0 :=
      Laws.RowPattern.formatB_mask op colour bar
    rw [h8, h7, hmask]
    exact encode_decode_formatB op colour bar
  · obtain ⟨cop, arg, rfl⟩ : ∃ cop arg, formatC cop arg = w := ⟨_, _, formatC_of_fields w⟩
    have hmask : formatC cop arg &&& (0b1100000000 : BitVec 10) = formatC cop 0 :=
      Laws.RowPattern.formatC_mask cop arg
    rw [topBit_formatC, hmask]
    exact encode_decode_formatC cop arg

/-- Settles O1: nine closed words. -/
theorem wordsOfTheSpecDecode : Obligations.WordsOfTheSpecDecode := by
  unfold Obligations.WordsOfTheSpecDecode
  decide

/-- Settles O5: closed tables, and the colours one by one. -/
theorem codesAtThePorts : Obligations.CodesAtThePorts :=
  ⟨rfl, colourOfCode_colourCode, rfl, rfl, rfl⟩

/-! ## The mirror of the strap (40_mapper.md R60) -/

theorem mapBar_orient_bijective (z : Bool) : Function.Bijective (fun n : Bar => mapBar (orient z n)) :=
  mapBar_bijective.comp (orient_bijective z)

/-- ZeroAtChip mirrors the words and the bits within them. -/
theorem place_orient_true (p : Bar) : (mapGroup (orient true p)).val = 2 - (mapGroup p).val ∧
    (mapBit (orient true p)).val = 7 - (mapBit p).val := by
  revert p; decide

/-- Settles O10, from the two bijections ORIENT and MAP. -/
theorem strapFlipMirrorsTheLayout : Obligations.StrapFlipMirrorsTheLayout :=
  ⟨mapBar_orient_bijective, place_orient_true, rfl, rfl⟩

/-! ## Steps and what they run (00_scope.md R9) -/

theorem step_presented {s : State} {r : Request} {rest : List Request} (h : s.pending = r :: rest) :
    step s = exec (decode r.word) (present r rest s) := by
  rw [step, h]

theorem step_nothing_presented {s : State} (h : s.pending = []) : step s = .next (idle s) := by
  rw [step, h]

/-- Settles O40: `present` sets the inputs to the request's levels and takes it off the list. -/
theorem stepRunsTheDecodedCommand : Obligations.StepRunsTheDecodedCommand :=
  fun _ _ _ h => step_presented h

/-- Settles O41: an idle step clears the ports alone. -/
theorem nothingPresentedNothingHappens : Obligations.NothingPresentedNothingHappens :=
  fun _ h => step_nothing_presented h

/-- An operand error leaves the state but for the ports. -/
theorem raise_with_outputs (e : Status) (m : MapperPorts) (s : State) :
    { raise e m s with outputs := s.outputs } = s := rfl

/-- Settles O39: both operand errors are the end of `raise`, which writes the ports alone. -/
theorem operandErrorsChangeOnlyTheStatus : Obligations.OperandErrorsChangeOnlyTheStatus := by
  rintro i s t h (he | he)
  · rw [eq_raise_of_outOfRange h he, raise_with_outputs]
  · rw [eq_raise_of_invalidRate h he, raise_with_outputs]

theorem exec_completes (i : Instr) (s : State) : ∃ t, exec i s = .next t := by
  obtain ⟨t, ht, -⟩ := exec_with_pwr i s s.pwr
  exact ⟨t, ht⟩

theorem step_completes (s : State) : ∃ t, step s = .next t := by
  cases h : s.pending with
  | nil => exact ⟨_, step_nothing_presented h⟩
  | cons r rest =>
    rw [step_presented h]
    exact exec_completes _ _

/-- Settles O42: a command's end always shows results. -/
theorem everyCommandAndStepCompletes : Obligations.EveryCommandAndStepCompletes := by
  refine ⟨fun i s => ?_, step_completes⟩
  obtain ⟨t, ht⟩ := exec_completes i s
  obtain ⟨o, ho, -⟩ := exec_yields ht
  exact ⟨t, ht, by rw [ho]; rfl⟩

/-! ## What each kind of command writes, said once over all commands -/

theorem exec_of_isBarCommand {i : Instr} {n : Nat} {c : Colour} (h : IsBarCommand i n c) (s : State) :
    ∃ img o, exec i s = .next { s with image := img, outputs := some o } := by
  rcases Nat.lt_or_ge n 24 with hn | hn
  · obtain ⟨img, hx⟩ := exec_of_legalBar (n := ⟨n, hn⟩) h s
    exact ⟨img, _, hx⟩
  · exact ⟨_, _, exec_of_illegalBar h hn s⟩

theorem exec_of_writesImage {i : Instr} (h : WritesImage i) (s : State) :
    ∃ img o, exec i s = .next { s with image := img, outputs := some o } := by
  rcases h with rfl | ⟨n, c, rfl⟩ | ⟨n, c, rfl⟩
  · exact ⟨_, _, exec_clear s⟩
  · exact exec_of_isBarCommand (.inl rfl) s
  · exact exec_of_isBarCommand (.inr rfl) s

/-- Every end of a command, by the kind of the command: an image and a report, one write, or InvalidRate. -/
theorem exec_ends {i : Instr} {s t : State} (h : exec i s = .next t) :
    (WritesImage i ∧ ∃ img o, t = { s with image := img, outputs := some o }) ∨
    (Emits i ∧ ∃ payload diag,
      t = afterWrite { s with pwr := powerNext i s.xportFail s.pwr } payload diag) ∨
    (¬ WritesImage i ∧ t = raise .invalidRate .notDriven s) := by
  by_cases hw : WritesImage i
  · obtain ⟨img, o, hx⟩ := exec_of_writesImage hw s
    exact .inl ⟨hw, img, o, Host.Outcome.next.inj (h.symm.trans hx)⟩
  by_cases he : Emits i
  · obtain ⟨payload, diag, hx⟩ := exec_of_emits he s
    exact .inr (.inl ⟨he, payload, diag, Host.Outcome.next.inj (h.symm.trans hx)⟩)
  · obtain ⟨r, rfl, hr⟩ := not_not.mp (not_and.mp (mt emits_iff.mpr he) hw)
    exact .inr (.inr ⟨hw, Host.Outcome.next.inj (h.symm.trans (exec_blink_unsupported hr s))⟩)

/-- No command writes the inputs or the commands to come (R15, R31). -/
theorem exec_keeps_inputs {i : Instr} {s t : State} (h : exec i s = .next t) :
    t.zeroAtChip = s.zeroAtChip ∧ t.xportFail = s.xportFail ∧ t.pending = s.pending := by
  rcases exec_ends h with ⟨-, img, o, rfl⟩ | ⟨-, payload, diag, rfl⟩ | ⟨-, rfl⟩ <;> exact ⟨rfl, rfl, rfl⟩

theorem image_of_not_writesImage {i : Instr} {s t : State} (h : exec i s = .next t) (hi : ¬ WritesImage i) :
    t.image = s.image := by
  rcases exec_ends h with ⟨hw, -⟩ | ⟨-, payload, diag, rfl⟩ | ⟨-, rfl⟩
  · exact absurd hw hi
  · rfl
  · rfl

theorem sent_of_writesImage {i : Instr} {s t : State} (h : exec i s = .next t) (hi : WritesImage i) :
    t.sent = s.sent := by
  rcases exec_ends h with ⟨-, img, o, rfl⟩ | ⟨he, -⟩ | ⟨hw, -⟩
  · rfl
  · exact absurd hi he.not_writesImage
  · exact absurd hi hw

/-- A command adds at most one write, at the end of the record and to the device address (R67, R76). -/
theorem sent_of_exec {i : Instr} {s t : State} (h : exec i s = .next t) :
    t.sent = s.sent ∨ ∃ payload, t.sent = s.sent ++ [⟨0xE0, payload, s.xportFail⟩] := by
  rcases exec_ends h with ⟨-, img, o, rfl⟩ | ⟨-, payload, diag, rfl⟩ | ⟨-, rfl⟩
  · exact .inl rfl
  · exact .inr ⟨payload, rfl⟩
  · exact .inl rfl

theorem pwr_of_not_power {i : Instr} {s t : State} (h : exec i s = .next t) (hon : i ≠ .pwron)
    (hoff : i ≠ .pwroff) : t.pwr = s.pwr := by
  rw [pwr_of_exec h, powerNext_of_ne hon hoff]

/-- Settles O44, from the end each kind of command comes to. -/
theorem commandsWriteOnlyTheirState : Obligations.CommandsWriteOnlyTheirState := by
  intro i s t h
  obtain ⟨hstrap, hanswer, hpending⟩ := exec_keeps_inputs h
  exact ⟨image_of_not_writesImage h, pwr_of_not_power h, hstrap, hanswer, hpending, sent_of_writesImage h,
    sent_of_exec h⟩

/-! ## What a command reads -/

theorem exec_with_strap {i : Instr} (hi : ∀ n c, ¬ IsBarCommand i n c) (s : State) (z : Bool) :
    ∃ t, exec i s = .next t ∧ exec i { s with zeroAtChip := z } = .next { t with zeroAtChip := z } := by
  cases i with
  | clear | draw | pwron | pwroff | bright => exact ⟨_, rfl, rfl⟩
  | set n c => exact absurd (.inl rfl) (hi n c)
  | fill n c => exact absurd (.inr rfl) (hi n c)
  | blink rate2 =>
    simp only [exec, execBlink]
    cases blinkIndex rate2 <;> exact ⟨_, rfl, rfl⟩

/-- Earlier results reach nothing, and the record nothing but the record: with others of both a command ends in the
same state, but for the record, which grows by the same writes. -/
theorem exec_with_results_and_sent (i : Instr) (s : State) (o : Option Outputs) (ws : List BusWrite) :
    ∃ t new, exec i s = .next t ∧ t.sent = s.sent ++ new ∧
      exec i { s with outputs := o, sent := ws } = .next { t with sent := ws ++ new } := by
  cases i with
  | clear => exact ⟨_, [], rfl, (List.append_nil _).symm, by rw [List.append_nil]; rfl⟩
  | draw | pwron | pwroff | bright => exact ⟨_, _, rfl, rfl, rfl⟩
  | set n c | fill n c =>
    simp only [exec, execSet, execFill]
    cases validBar n <;> exact ⟨_, [], rfl, (List.append_nil _).symm, by rw [List.append_nil]; rfl⟩
  | blink rate2 =>
    simp only [exec, execBlink]
    cases blinkIndex rate2 with
    | none => exact ⟨_, [], rfl, (List.append_nil _).symm, by rw [List.append_nil]; rfl⟩
    | some idx => exact ⟨_, _, rfl, rfl, rfl⟩

theorem exec_with_outputs (i : Instr) (s : State) (o : Option Outputs) :
    exec i { s with outputs := o } = exec i s := by
  obtain ⟨t, new, ht, hsent, hx⟩ := exec_with_results_and_sent i s o s.sent
  rw [← hsent] at hx
  exact hx.trans ht.symm

/-- Settles O45: no other command's end depends on the strap, and every end keeps it. -/
theorem strapIsReadOnlyBySetAndFill : Obligations.StrapIsReadOnlyBySetAndFill := by
  refine ⟨fun i s t z hi h => ?_, fun i s t h => (exec_keeps_inputs h).1⟩
  obtain ⟨u, hu, hz⟩ := exec_with_strap hi s z
  obtain rfl := Host.Outcome.next.inj (hu.symm.trans h)
  exact hz

theorem powerNext_of_power {i : Instr} (h : i = .pwron ∨ i = .pwroff) (xportFail : Bool) (p q : Power) :
    powerNext i xportFail p = powerNext i xportFail q := by
  rcases h with rfl | rfl <;> rfl

/-- Settles O46: another record first, then another `PWR` at the state with that record. -/
theorem resultsPowerAndHistoryAreNeverRead : Obligations.ResultsPowerAndHistoryAreNeverRead := by
  refine ⟨exec_with_outputs, fun i s t p ws h => ?_⟩
  obtain ⟨t', new, ht, hsent, hws⟩ := exec_with_results_and_sent i s s.outputs ws
  obtain rfl := Host.Outcome.next.inj (ht.symm.trans h)
  obtain ⟨u, hu, hp⟩ := exec_with_pwr i { s with sent := ws } p
  obtain rfl := Host.Outcome.next.inj (hu.symm.trans hws)
  refine ⟨_, new, hp, rfl, rfl, hsent, rfl, fun hi => ?_⟩
  rw [pwr_of_exec h]
  exact powerNext_of_power hi _ _ _

/-- Settles O49: a power state machine that is not Unknown becomes so by a failed power command alone. -/
theorem onlyFailedPowerCommandsForgetThePower : Obligations.OnlyFailedPowerCommandsForgetThePower := by
  refine ⟨fun s t h => ⟨image_of_exec_clear h, pwr_of_exec h⟩, fun i s t h hs ht => ?_⟩
  rw [pwr_of_exec h] at ht
  have hi : i = .pwron ∨ i = .pwroff := by
    by_contra hi
    obtain ⟨hon, hoff⟩ := not_or.mp hi
    exact hs ((powerNext_of_ne hon hoff _ _).symm.trans ht)
  refine ⟨hi, ?_⟩
  by_contra hok
  rw [Bool.not_eq_true] at hok
  rw [hok] at ht
  rcases hi with rfl | rfl <;> cases ht

/-! ## Invariants of a step -/

/-- What the inputs, the ports and the commands to come do not touch and every command keeps, every step keeps. -/
theorem step_keeps {P : State → Prop} (hidle : ∀ s, P s → P (idle s))
    (hpresent : ∀ r rest s, P s → P (present r rest s)) (hexec : ∀ i s t, P s → exec i s = .next t → P t)
    {s t : State} (hs : P s) (h : step s = .next t) : P t := by
  rcases step_next_cases h with ⟨-, rfl⟩ | ⟨r, rest, -, hx⟩
  · exact hidle s hs
  · exact hexec _ _ _ (hpresent r rest s hs) hx

theorem writesLegal_emitAndReport {s : State} (hs : WritesLegal s) {payload : List Byte}
    (hp : LegalPayload payload) (d : Option Bool) : WritesLegal (emitAndReport payload d s) := by
  intro w hw
  rw [emitAndReport_sent, List.mem_append, List.mem_singleton] at hw
  rcases hw with hw | rfl
  · exact hs w hw
  · exact ⟨rfl, hp⟩

theorem exec_keeps_writesLegal (i : Instr) (s t : State) (hs : WritesLegal s) (h : exec i s = .next t) :
    WritesLegal t := by
  rcases exec_next_cases h with ⟨img, m, rfl⟩ | ⟨e, m, rfl⟩ | ⟨payload, d, p, rfl, hp, -⟩
  · exact hs
  · exact hs
  · exact writesLegal_emitAndReport (s := { s with pwr := p }) hs hp d

/-- Settles O51: a command adds a legal write or none. -/
theorem stepKeepsWritesLegal : Obligations.StepKeepsWritesLegal :=
  fun _ _ hs h => step_keeps (P := WritesLegal) (fun _ h => h) (fun _ _ _ h => h) exec_keeps_writesLegal hs h

/-- Settles O52: the record is empty. -/
theorem resetWritesLegal : Obligations.ResetWritesLegal := List.forall_mem_nil _

/-- PWRON's sequence tells the device On, unless the write failed (R68). -/
theorem powerToldBy_on (q : Power) (device : Byte) (failed : Bool) :
    powerToldBy q ⟨device, [0x21, 0x81], failed⟩ = powerAfter .on failed := if_pos rfl

/-- PWROFF's sequence tells the device Off, unless the write failed (R69). -/
theorem powerToldBy_off (q : Power) (device : Byte) (failed : Bool) :
    powerToldBy q ⟨device, [0x80, 0x20], failed⟩ = powerAfter .off failed :=
  (if_neg (show ([0x80, 0x20] : List Byte) ≠ [0x21, 0x81] by decide)).trans (if_pos rfl)

/-- Any other payload says nothing about the power. -/
theorem powerToldBy_other (q : Power) (device : Byte) {payload : List Byte} (failed : Bool)
    (hon : payload ≠ [0x21, 0x81]) (hoff : payload ≠ [0x80, 0x20]) :
    powerToldBy q ⟨device, payload, failed⟩ = q :=
  (if_neg hon).trans (if_neg hoff)

theorem exec_keeps_powerTracksWrites (i : Instr) (s t : State) (hs : PowerTracksWrites s)
    (h : exec i s = .next t) : PowerTracksWrites t := by
  rcases exec_next_cases h with ⟨img, m, rfl⟩ | ⟨e, m, rfl⟩ | ⟨payload, d, p, rfl, -, hpower⟩
  · exact hs
  · exact hs
  · rw [PowerTracksWrites, emitAndReport_sent, emitAndReport_pwr, powerTold_append]
    rcases hpower with ⟨rfl, rfl⟩ | ⟨rfl, rfl⟩ | ⟨hon, hoff, rfl⟩
    · rw [powerToldBy_on]
    · rw [powerToldBy_off]
    · rw [powerToldBy_other _ _ _ hon hoff]
      exact hs

/-- Settles O53: the power state machine and the record hear the same answers. -/
theorem stepKeepsPowerTrackingWrites : Obligations.StepKeepsPowerTrackingWrites :=
  fun _ _ hs h =>
    step_keeps (P := PowerTracksWrites) (fun _ h => h) (fun _ _ _ h => h) exec_keeps_powerTracksWrites hs h

/-- Settles O54: the record is empty, so nothing was told. -/
theorem resetPowerTracksWrites : Obligations.ResetPowerTracksWrites := rfl

/-! ## What the last successful DRAW sent (10_state.md R20) -/

theorem payload_length_of_afterWrite {i : Instr} {s u : State} {payload : List Byte} {diag : Option Bool}
    (h : exec i s = .next (afterWrite u payload diag)) : payload.length = if i = .draw then 7 else 2 := by
  obtain ⟨o, ho, hy⟩ := exec_yields h
  obtain rfl := Option.some.inj ho
  exact Option.some.inj (hy.of_outBytes_isSome rfl).1

theorem drawnBy_of_length_ne {d : Option (List Byte)} {w : BusWrite} (h : w.payload.length ≠ 7) : drawnBy d w = d :=
  if_neg (mt And.left h)

theorem lastDrawn_of_not_draw {i : Instr} {s t : State} (hi : i ≠ .draw) (h : exec i s = .next t) :
    lastDrawn t.sent = lastDrawn s.sent := by
  rcases exec_ends h with ⟨-, img, o, rfl⟩ | ⟨-, payload, diag, rfl⟩ | ⟨-, rfl⟩
  · rfl
  · have hlen := payload_length_of_afterWrite h
    rw [if_neg hi] at hlen
    exact (lastDrawn_append _ _).trans (drawnBy_of_length_ne (by rw [hlen]; decide))
  · rfl

theorem drawnBy_drawBytes (d : Option (List Byte)) (device : Byte) (img : Image) (failed : Bool) :
    drawnBy d ⟨device, drawBytes img, failed⟩ = if failed then d else some (drawBytes img) := by
  cases failed <;> rfl

/-- Settles O48: only DRAW's payload has seven bytes. -/
theorem lastSuccessfulPayloadChangesOnlyAtDraw : Obligations.LastSuccessfulPayloadChangesOnlyAtDraw := by
  refine ⟨fun i s t hi h => lastDrawn_of_not_draw hi h, fun s t h => ?_⟩
  obtain rfl := Host.Outcome.next.inj ((exec_draw s).symm.trans h)
  rw [emitAndReport_sent, lastDrawn_append, drawnBy_drawBytes]

/-! ## The 48 bits of the image and the bars that own them (10_state.md R11 to R13) -/

/-- The one bar and plane (false red, true green) a bit belongs to. -/
theorem bit_owner_iff (g : Group) (j : Fin 16) (p : Bar) (grn : Bool) :
    (mapGroup p = g ∧ j.val = (mapBit p).val + (if grn then 8 else 0)) ↔
      p = mapInv g ⟨j.val % 8, Nat.mod_lt _ (by decide)⟩ ∧ grn = decide (8 ≤ j.val) := by
  have hb := (mapBit p).isLt
  rw [eq_comm (a := p), mapInv_eq_iff, Fin.ext_iff (n := 8), eq_comm (a := g), and_assoc]
  refine and_congr_right fun _ => ?_
  cases grn with
  | false =>
    rw [if_neg Bool.false_ne_true, Bool.false_eq, decide_eq_false_iff_not]
    dsimp only
    omega
  | true =>
    simp only [if_true, Bool.true_eq, decide_eq_true_eq]
    omega

/-- An image painted bar by bar: each listed bar takes the colour asked for it. -/
def paint (colours : Bar → Colour) (img : Image) (bars : List Bar) : Image :=
  bars.foldl (fun w p => setp w p (colours p)) img

theorem paint_cons (colours : Bar → Colour) (img : Image) (p : Bar) (bars : List Bar) :
    paint colours img (p :: bars) = paint colours (setp img p (colours p)) bars := rfl

theorem readColour_paint (colours : Bar → Colour) (img : Image) (bars : List Bar) (q : Bar) :
    readColour (paint colours img bars) q = if q ∈ bars then colours q else readColour img q := by
  induction bars generalizing img with
  | nil => rfl
  | cons p ps ih =>
    rw [paint_cons, ih, readColour_setp]
    by_cases hps : q ∈ ps
    · simp [hps]
    · by_cases hp : q = p
      · simp [hp]
      · simp [hps, hp]

/-- Painting every bar leaves nothing of the image before. -/
theorem readColour_paint_all (colours : Bar → Colour) (img : Image) (q : Bar) :
    readColour (paint colours img (List.finRange 24)) q = colours q := by
  rw [readColour_paint, if_pos (List.mem_finRange q)]

/-- Settles O15: each bit has its owner, so the bars' colours determine the image, and any can be painted. -/
theorem imageIsDeterminedByItsBars : Obligations.ImageIsDeterminedByItsBars := by
  refine ⟨fun g j => ?_, fun a b h => image_ext_colours h,
    fun colours => ⟨_, readColour_paint_all colours imageZero⟩⟩
  simp only [bit_owner_iff]
  exact ⟨(_, _), ⟨rfl, rfl⟩, fun pq h => Prod.ext h.1 h.2⟩

/-! ## The popcount of the image (40_mapper.md R60) -/

/-- The lit channels at one bit offset of a word: its red bit and its green bit, as a count. -/
def channelsAt (w : Word) (b : BitOffset) : Nat := (w.getLsbD b.val).toNat + (w.getLsbD (b.val + 8)).toNat

/-- The lit channels of a bar. -/
def litChannels (img : Image) (p : Bar) : Nat := channelsAt (wordAt img (mapGroup p)) (mapBit p)

theorem litChannels_eq (img : Image) (p : Bar) :
    litChannels img p = (redVal (readColour img p)).toNat + (grnVal (readColour img p)).toNat := by
  rw [redVal_readColour, grnVal_readColour]
  rfl

theorem popcountBelow_eq_sum (w : Word) (n : Nat) :
    popcountBelow w n = ∑ j ∈ Finset.range n, (w.getLsbD j).toNat := by
  induction n with
  | zero => rfl
  | succ n ih => rw [popcountBelow, ih, Finset.sum_range_succ]

/-- A word's popcount, bit offset by bit offset over its two planes. -/
theorem popcount_word (w : Word) : popcountBelow w 16 = ∑ b : BitOffset, channelsAt w b := by
  rw [popcountBelow_eq_sum, Finset.sum_range_add _ 8 8, Finset.sum_range, Finset.sum_range, ← Finset.sum_add_distrib]
  simp only [channelsAt, Nat.add_comm 8]

/-- The image's popcount, bar by bar: MAP reaches every bit offset of every word once. -/
theorem imagePopcount_eq_sum (img : Image) : imagePopcount img = ∑ p : Bar, litChannels img p :=
  calc imagePopcount img
    _ = ∑ g : Group, ∑ b : BitOffset, channelsAt (wordAt img g) b := by
      rw [imagePopcount, popcount_word, popcount_word, popcount_word, Fin.sum_univ_three]
      rfl
    _ = ∑ place : Group × BitOffset, channelsAt (wordAt img place.1) place.2 :=
      (Fintype.sum_prod_type fun place : Group × BitOffset => channelsAt (wordAt img place.1) place.2).symm
    _ = ∑ p : Bar, litChannels img p :=
      (mapBar_bijective.sum_comp fun place => channelsAt (wordAt img place.1) place.2).symm

theorem channels_of_colour (c : Colour) : (redVal c).toNat + (grnVal c).toNat =
    (if c = .red then 1 else 0) + (if c = .green then 1 else 0) + 2 * (if c = .yellow then 1 else 0) := by
  cases c <;> rfl

theorem sum_litChannels (img : Image) (bars : List Bar) :
    (bars.map (litChannels img)).sum = bars.countP (fun p => decide (readColour img p = .red)) +
      bars.countP (fun p => decide (readColour img p = .green)) +
      2 * bars.countP (fun p => decide (readColour img p = .yellow)) := by
  induction bars with
  | nil => rfl
  | cons p ps ih =>
    rw [List.map_cons, List.sum_cons, ih, litChannels_eq, channels_of_colour]
    simp only [List.countP_cons, decide_eq_true_eq]
    ring

/-- Settles O16, counting the lit bits bar by bar. -/
theorem popcountCountsTheLitChannels : Obligations.PopcountCountsTheLitChannels := by
  intro img
  rw [imagePopcount_eq_sum, Fin.sum_univ_def]
  exact sum_litChannels img (List.finRange 24)

/-! ## SET and FILL (41_buffer_commands.md R62, R63) -/

/-- Settles O21: SETP writes the bar's two bits. -/
theorem setPerturbsNoOtherBit : Obligations.SetPerturbsNoOtherBit := by
  intro n c s t h g j hother
  rw [image_of_exec_set h, getLsbD_setp]
  split
  next hg =>
    obtain ⟨hr, hgrn⟩ := not_or.mp fun hj => hother ⟨hg, hj⟩
    rw [if_neg hr, if_neg hgrn]
  next => rfl

theorem exec_fill_legalBar (n : Bar) (c : Colour) (s : State) :
    exec (.fill n.val c) s = .next (finishImage (fillUpTo s.zeroAtChip c s.image n.val n.isLt)
      (.valid (mapperValues s.zeroAtChip n c)) s) := by
  rw [exec, execFill, validBar_val]

/-- The bars FILL writes and those it leaves, by physical number (R63). -/
theorem readColour_fill (z : Bool) (c : Colour) (img : Image) (n p : Bar) :
    readColour (fillUpTo z c img n.val n.isLt) p = if inFillRange z n p then c else readColour img p := by
  rw [readColour_fillUpTo, inFillRange_eq]
  simp only [decide_eq_true_eq]

/-- Settles O22: FILL's loop paints its range, and an illegal bar ends with `raise`. -/
theorem fillColoursExactlyItsRange : Obligations.FillColoursExactlyItsRange :=
  ⟨fun n c s => ⟨_, exec_fill_legalBar n c s, readColour_fill s.zeroAtChip c s.image n⟩,
    fun _ _ s hn => exec_of_illegalBar (.inr rfl) hn s⟩

/-- One more SET of a colour after an outcome, where that is a next state. -/
def setAfter (c : Colour) (o : Host.Outcome State Fault Refusal) (k : Bar) : Host.Outcome State Fault Refusal :=
  match o with
  | .next v => exec (.set k.val c) v
  | .fault r => .fault r
  | .refused r => .refused r

/-- SETs one after another are SETP on their oriented bars, and leave `PWR` and the record. -/
theorem foldl_setAfter (c : Colour) (order : List Bar) (s : State) :
    ∃ u, order.foldl (setAfter c) (.next s) = .next u ∧
      u.image = setAll s.image (order.map (orient s.zeroAtChip)) c ∧ u.pwr = s.pwr ∧ u.sent = s.sent := by
  induction order generalizing s with
  | nil => exact ⟨s, rfl, rfl, rfl, rfl⟩
  | cons k ks ih =>
    have hset : setAfter c (.next s) k = _ := exec_set_legalBar k c s
    obtain ⟨u, hu, himage, hpwr, hsent⟩ := ih (finishImage (setp s.image (orient s.zeroAtChip k) c)
      (.valid (mapperValues s.zeroAtChip k c)) s)
    exact ⟨u, by rw [List.foldl_cons, hset, hu], himage, hpwr, hsent⟩

/-- FILL's loop is SETP on the physical bars of the logical bars 0 to n, in whatever order they are listed. -/
theorem fillUpTo_eq_setAll (z : Bool) (c : Colour) (img : Image) (n : Bar) {order : List Bar}
    (h : ∀ k : Bar, k ∈ order ↔ k.val ≤ n.val) :
    fillUpTo z c img n.val n.isLt = setAll img (order.map (orient z)) c := by
  refine image_ext_colours fun p => ?_
  have hmem : p ∈ order.map (orient z) ↔ (orient z p).val ≤ n.val := by
    rw [List.mem_map_of_involutive (orient_orient z), h]
  rw [readColour_fillUpTo, readColour_setAll]
  simp only [hmem]

theorem fillMask_23 (z : Bool) (i : Group) : fillMask z 23 i = 0xFF#8 := by
  revert z i; decide

/-- Under the full mask a lane is the colour's plane value throughout. -/
theorem laneWord_full (w : Word) (c : Colour) :
    laneWord w 0xFF#8 c = (if grnVal c then 0xFF#8 else 0x00#8) ++ (if redVal c then 0xFF#8 else 0x00#8) := by
  have hor : ∀ b : Byte, b ||| 0xFF#8 = 0xFF#8 := fun b => BitVec.or_allOnes
  have hand : ∀ b : Byte, b &&& ~~~0xFF#8 = 0x00#8 := fun b => BitVec.and_zero
  simp only [laneWord, hor, hand]

/-- Settles O23: FILL and its SETs show the same colours, and FILL 23 is the full lane mask. -/
theorem fillEqualsItsSetsInAnyOrder : Obligations.FillEqualsItsSetsInAnyOrder := by
  refine ⟨fun n c s t order h hk => ?_, fun c s => ?_, fun c s t h g => ?_⟩
  · obtain rfl := Host.Outcome.next.inj ((exec_fill_legalBar n c s).symm.trans h)
    obtain ⟨u, hu, himage, hpwr, hsent⟩ := foldl_setAfter c order s
    exact ⟨u, hu, himage.trans (fillUpTo_eq_setAll _ c _ n hk).symm, hpwr, hsent⟩
  · exact (exec_fill_legalBar 0 c s).trans (exec_set_legalBar 0 c s).symm
  · obtain rfl := Host.Outcome.next.inj ((exec_fill_legalBar 23 c s).symm.trans h)
    rw [finishImage_image, fillUpTo_eq_applyLanes, wordAt_applyLanes, fillMask_23, laneWord_full]

theorem setp_setp_same (img : Image) (p : Bar) (c : Colour) : setp (setp img p c) p c = setp img p c := by
  refine image_ext_colours fun q => ?_
  simp only [readColour_setp]
  split <;> rfl

theorem fillUpTo_fillUpTo_same (z : Bool) (c : Colour) (img : Image) (n : Nat) (h : n < 24) :
    fillUpTo z c (fillUpTo z c img n h) n h = fillUpTo z c img n h := by
  refine image_ext_colours fun q => ?_
  simp only [readColour_fillUpTo]
  split <;> rfl

/-- SET and FILL issued at the state they left leave it. -/
theorem exec_isBarCommand_idempotent {i : Instr} {n : Nat} {c : Colour} (hi : IsBarCommand i n c) {s t : State}
    (h : exec i s = .next t) : exec i t = .next t := by
  rcases Nat.lt_or_ge n 24 with hn | hn
  · rcases hi with rfl | rfl
    · obtain rfl := Host.Outcome.next.inj ((exec_set_legalBar ⟨n, hn⟩ c s).symm.trans h)
      rw [exec_set_legalBar ⟨n, hn⟩, finishImage_image, finishImage_zeroAtChip, setp_setp_same]
      rfl
    · obtain rfl := Host.Outcome.next.inj ((exec_fill_legalBar ⟨n, hn⟩ c s).symm.trans h)
      rw [exec_fill_legalBar ⟨n, hn⟩, finishImage_image, finishImage_zeroAtChip, fillUpTo_fillUpTo_same]
      rfl
  · obtain rfl := Host.Outcome.next.inj ((exec_of_illegalBar hi hn s).symm.trans h)
    exact exec_of_illegalBar hi hn _

theorem exec_writesImage_idempotent {i : Instr} {s t : State} (hi : WritesImage i) (h : exec i s = .next t) :
    exec i t = .next t := by
  rcases hi with rfl | ⟨n, c, rfl⟩ | ⟨n, c, rfl⟩
  · obtain rfl := Host.Outcome.next.inj ((exec_clear s).symm.trans h)
    exact exec_clear _
  · exact exec_isBarCommand_idempotent (.inl rfl) h
  · exact exec_isBarCommand_idempotent (.inr rfl) h

/-- Settles O25: a second DRAW sends the bytes of the image the first one left as it was. -/
theorem bufferCommandsAreIdempotent : Obligations.BufferCommandsAreIdempotent := by
  refine ⟨fun i s t hi h => exec_writesImage_idempotent hi h, fun s t h => ?_⟩
  obtain rfl := Host.Outcome.next.inj ((exec_draw s).symm.trans h)
  exact ⟨_, _, exec_draw _, rfl, rfl, List.append_assoc _ _ _⟩

/-- Settles O50: three SETs of one bar are three SETPs, of which the last one shows. -/
theorem redGreenOffLeavesNoCrossTalk : Obligations.RedGreenOffLeavesNoCrossTalk := fun n s =>
  ⟨_, _, _, exec_set_legalBar n .red s, exec_set_legalBar n .green _, exec_set_legalBar n .off _,
    readColour_red_green_off s.image (orient s.zeroAtChip n)⟩

/-! ## Presented commands and runs (20_memory.md section 6) -/

/-- A step on the word of a well-formed command runs that command at the presented levels. -/
theorem step_encode {i : Instr} (hi : i.wf = true) {s : State} {z f : Bool} {rest : List Request}
    (h : s.pending = ⟨encode i, z, f⟩ :: rest) : step s = exec i (present ⟨encode i, z, f⟩ rest s) := by
  rw [step_presented h, decode_encode hi]

theorem bar_lt_32 (n : Bar) : n.val < 32 := Nat.lt_trans n.isLt (by decide)

theorem set_bar_wf (n : Bar) (c : Colour) : (Instr.set n.val c).wf = true := (wf_set_iff n.val c).mpr (bar_lt_32 n)

theorem fill_bar_wf (n : Bar) (c : Colour) : (Instr.fill n.val c).wf = true := (wf_fill_iff n.val c).mpr (bar_lt_32 n)

/-- Settles O47: the strap a command reads is the one presented with it. -/
theorem presentedSetAndFillUseTheirOwnStrap : Obligations.PresentedSetAndFillUseTheirOwnStrap :=
  fun s n c z _ _ =>
    ⟨⟨_, (step_encode (set_bar_wf n c) rfl).trans (exec_set_legalBar n c _), rfl,
      fun p => readColour_setp s.image (orient z n) p c⟩,
    ⟨_, (step_encode (fill_bar_wf n c) rfl).trans (exec_fill_legalBar n c _), rfl, readColour_fill z c s.image n⟩⟩

theorem sent_growth_of_exec {i : Instr} {s t : State} (h : exec i s = .next t) :
    ∃ new, t.sent = s.sent ++ new ∧ new.length ≤ 1 := by
  rcases sent_of_exec h with hsame | ⟨payload, hone⟩
  · exact ⟨[], by rw [hsame, List.append_nil], Nat.zero_le 1⟩
  · exact ⟨_, hone, le_rfl⟩

/-- As many steps as commands are presented run to completion, each adding at most one write. -/
theorem run_presented (cmds : List Request) (s : State) (hs : s.pending = cmds) :
    ∃ t new, Sys2Proof.core.run cmds.length s = .next t ∧ t.pending = [] ∧ t.sent = s.sent ++ new ∧
      new.length ≤ cmds.length := by
  induction cmds generalizing s with
  | nil => exact ⟨s, [], run_zero s, hs, (List.append_nil _).symm, le_rfl⟩
  | cons r rest ih =>
    obtain ⟨u, hu⟩ := exec_completes (decode r.word) (present r rest s)
    obtain ⟨-, -, hpending⟩ := exec_keeps_inputs hu
    obtain ⟨first, hfirst, hone⟩ := sent_growth_of_exec hu
    obtain ⟨t, later, hrun, hend, hlater, hcount⟩ := ih u hpending
    refine ⟨t, first ++ later, ?_, hend, ?_, ?_⟩
    · rw [List.length_cons, run_succ_of_next _ ((step_presented hs).trans hu), hrun]
    · rw [hlater, hfirst, present_sent, List.append_assoc]
    · rw [List.length_append, List.length_cons]
      omega

/-- Settles O55, by induction on the commands presented. -/
theorem presentedCommandsRunToCompletion : Obligations.PresentedCommandsRunToCompletion :=
  fun s => run_presented s.pending s rfl

/-- The SET that gives physical bar `p` its colour of the target under a strap. -/
def setRequest (target : Image) (z : Bool) (p : Bar) : Request :=
  ⟨encode (.set (orient z p).val (readColour target p)), z, false⟩

theorem step_setRequest {target : Image} {z : Bool} {p : Bar} {rest : List Request} {s : State}
    (h : s.pending = setRequest target z p :: rest) :
    ∃ u, step s = .next u ∧ u.pending = rest ∧ u.image = setp s.image p (readColour target p) ∧
      u.pwr = s.pwr ∧ u.sent = s.sent := by
  refine ⟨_, (step_encode (set_bar_wf _ _) h).trans (exec_set_legalBar _ _ _), rfl, ?_, rfl, rfl⟩
  rw [finishImage_image, present_zeroAtChip, present_image, orient_orient]

/-- A run over such SETs paints the listed bars, and leaves `PWR` and the record. -/
theorem run_setRequests (target : Image) (z : Bool) (bars : List Bar) (s : State)
    (hs : s.pending = bars.map (setRequest target z)) :
    ∃ t, Sys2Proof.core.run bars.length s = .next t ∧ t.image = paint (readColour target) s.image bars ∧
      t.pwr = s.pwr ∧ t.sent = s.sent := by
  induction bars generalizing s with
  | nil => exact ⟨s, run_zero s, rfl, rfl, rfl⟩
  | cons p ps ih =>
    obtain ⟨u, hstep, hpending, himage, hpwr, hsent⟩ := step_setRequest hs
    obtain ⟨t, hrun, himage', hpwr', hsent'⟩ := ih u hpending
    exact ⟨t, (run_succ_of_next _ hstep).trans hrun, by rw [himage', himage, paint_cons], hpwr'.trans hpwr,
      hsent'.trans hsent⟩

/-- Settles O56: a SET for each bar in turn paints the target's colours. -/
theorem everyImageIsReachableBySet : Obligations.EveryImageIsReachableBySet := by
  intro s target z
  refine ⟨(List.finRange 24).map (setRequest target z), fun r hr => ?_, ?_⟩
  · obtain ⟨p, -, rfl⟩ := List.mem_map.mp hr
    exact ⟨rfl, _, _, decode_encode (set_bar_wf (orient z p) (readColour target p))⟩
  · obtain ⟨t, hrun, himage, hpwr, hsent⟩ :=
      run_setRequests target z (List.finRange 24) { s with pending := (List.finRange 24).map (setRequest target z) } rfl
    refine ⟨t, by rwa [List.length_map], ?_, hpwr, hsent⟩
    exact image_ext_colours fun p => by rw [himage, readColour_paint_all]

end Sys2Proof.Machine
